-- ==== Sys2Proof/Word.lean ====
section
/-! DEFINITION. Sys2Proof/Word.lean: the widths of the CHIP-8 core (00_scope.md R8, R9, R25, R26). -/

namespace Sys2Proof

/-- An 8-bit value: a byte of memory, a register V0 to VF, a timer, an immediate NN (R8, R41, R48, R104). -/
abbrev Byte := BitVec 8

/-- A 16-bit value: pc, I, a stack entry, an instruction word (R9, R10, R100). -/
abbrev Word := BitVec 16

/-- The 12-bit address field NNN of an instruction word (R103). -/
abbrev Addr12 := BitVec 12

/-- The number of a general register, 0 to 15; all sixteen are valid (R42, R102). -/
abbrev Reg := Fin 16

end Sys2Proof
end

