-- ==== Sys2Proof/Config.lean ====
section
/-! DEFINITION. Sys2Proof/Config.lean: what is fixed when the block is built (00_scope.md section 4), and the
one free value of the spec, the RNG oracle of R23. -/

namespace Sys2Proof

/-- `LOW_WRITE_POLICY` (00_scope.md R22, 20_memory.md R87). -/
inductive LowWritePolicy where
  /-- an instruction's store below 0x200 raises ProtectedWrite (the default) -/
  | fault
  /-- stores to 0x050 to 0x1FF are performed; the font still faults -/
  | permit
  deriving DecidableEq, Repr

/-- `FONT_TABLE` (00_scope.md R13): the 80 bytes of the glyph set, the byte at address a in place a (R12,
10_state.md R47). -/
abbrev FontTable := Vector Byte 80

/-- The build parameters that the spec leaves open (00_scope.md R10, R13, R17 to R22). R56: they are fixed when the
block is built. Log 2 says how the model carries them. -/
structure Build where
  /-- `STACK_DEPTH` (R10), 12 to 16 -/
  stackDepth : Nat
  /-- `FONT_TABLE` (R13), any 80 bytes -/
  fontTable : FontTable
  /-- `DRAW_WRAP` (R17): sprite pixels wrap at the right and bottom edges -/
  drawWrap : Bool
  /-- `SHIFT_USES_VY` (R18): 8XY6 and 8XYE shift VY -/
  shiftUsesVy : Bool
  /-- `LOGIC_RESETS_VF` (R19): 8XY1, 8XY2 and 8XY3 write VF <- 0 -/
  logicResetsVf : Bool
  /-- `LOADSTORE_INCREMENTS_I` (R20): FX55 and FX65 set I <- I + X + 1 -/
  loadstoreIncrementsI : Bool
  /-- `JUMP_OFFSET_USES_VX` (R21): BNNN adds VX, X = w[11:8] -/
  jumpOffsetUsesVx : Bool
  /-- `LOW_WRITE_POLICY` (R22) -/
  lowWritePolicy : LowWritePolicy
  deriving DecidableEq, Repr

/-- The RNG oracle (00_scope.md R23, 46_timers_keys_random.md R230): the byte of the n-th draw. It has no body, so
no proof can know a value of it: a statement about CXNN holds for every byte at every draw (log 1). -/
opaque Config.randomByte : Nat → Byte

end Sys2Proof
end

