-- ==== Sys2Proof/Syntax.lean ====
section
/-! DEFINITION. Sys2Proof/Syntax.lean: the 34 instructions of 30_encoding.md R107, one constructor per row of
spec/opcode_table.json, in the table's order. A field's type carries the field's range: `Reg` for X and Y (R102),
`Byte` for NN, `Addr12` for NNN (R103, R104), `Fin 16` for the row count N (R104). -/

namespace Sys2Proof

/-- An instruction of the base CHIP-8 set (R2, R107). -/
inductive Instr where
  /-- 00E0 `CLS` (R210) -/
  | cls
  /-- 00EE `RET` (R150) -/
  | ret
  /-- 1NNN `JP nnn` (R151) -/
  | jp (nnn : Addr12)
  /-- 2NNN `CALL nnn` (R152) -/
  | call (nnn : Addr12)
  /-- 3XNN `SE Vx, nn` (R161) -/
  | seImm (x : Reg) (nn : Byte)
  /-- 4XNN `SNE Vx, nn` (R162) -/
  | sneImm (x : Reg) (nn : Byte)
  /-- 5XY0 `SE Vx, Vy` (R163) -/
  | seReg (x y : Reg)
  /-- 6XNN `LD Vx, nn` (R171) -/
  | ldImm (x : Reg) (nn : Byte)
  /-- 7XNN `ADD Vx, nn` (R172) -/
  | addImm (x : Reg) (nn : Byte)
  /-- 8XY0 `LD Vx, Vy` (R173) -/
  | ldReg (x y : Reg)
  /-- 8XY1 `OR Vx, Vy` (R174) -/
  | orReg (x y : Reg)
  /-- 8XY2 `AND Vx, Vy` (R175) -/
  | andReg (x y : Reg)
  /-- 8XY3 `XOR Vx, Vy` (R176) -/
  | xorReg (x y : Reg)
  /-- 8XY4 `ADD Vx, Vy` (R177) -/
  | addReg (x y : Reg)
  /-- 8XY5 `SUB Vx, Vy` (R178) -/
  | sub (x y : Reg)
  /-- 8XY6 `SHR Vx, Vy` (R179) -/
  | shr (x y : Reg)
  /-- 8XY7 `SUBN Vx, Vy` (R180) -/
  | subn (x y : Reg)
  /-- 8XYE `SHL Vx, Vy` (R181) -/
  | shl (x y : Reg)
  /-- 9XY0 `SNE Vx, Vy` (R164) -/
  | sneReg (x y : Reg)
  /-- ANNN `LD I, nnn` (R190) -/
  | ldI (nnn : Addr12)
  /-- BNNN `JP V0, nnn` (R153) -/
  | jpV0 (nnn : Addr12)
  /-- CXNN `RND Vx, nn` (R230) -/
  | rnd (x : Reg) (nn : Byte)
  /-- DXYN `DRW Vx, Vy, n` (R211) -/
  | drw (x y : Reg) (n : Fin 16)
  /-- EX9E `SKP Vx` (R165) -/
  | skp (x : Reg)
  /-- EXA1 `SKNP Vx` (R166) -/
  | sknp (x : Reg)
  /-- FX07 `LD Vx, DT` (R231) -/
  | ldVxDt (x : Reg)
  /-- FX0A `LD Vx, K` (R232) -/
  | ldVxK (x : Reg)
  /-- FX15 `LD DT, Vx` (R233) -/
  | ldDtVx (x : Reg)
  /-- FX18 `LD ST, Vx` (R234) -/
  | ldStVx (x : Reg)
  /-- FX1E `ADD I, Vx` (R191) -/
  | addIVx (x : Reg)
  /-- FX29 `LD F, Vx` (R192) -/
  | ldFVx (x : Reg)
  /-- FX33 `LD B, Vx` (R193) -/
  | ldBVx (x : Reg)
  /-- FX55 `LD [I], Vx` (R194) -/
  | ldMemVx (x : Reg)
  /-- FX65 `LD Vx, [I]` (R195) -/
  | ldVxMem (x : Reg)
  deriving DecidableEq, Repr

end Sys2Proof
end

