-- ==== Sys2Proof/WellFormed.lean ====
section
/-! DEFINITION. Sys2Proof/WellFormed.lean: the range checks of the spec on operands (30_encoding.md R102 to R104), on
the build parameters (00_scope.md R10) and on a ROM (70_reset_and_hazards.md R292). The types of Instr's fields
carry the operand ranges, so every term of Instr passes (Laws/PerInstr.lean proves it); the checks are written on
numbers so that a value outside a field's range is refused. -/

namespace Sys2Proof

/-- R102: a register field names one of sixteen registers. -/
def regInRange (x : Nat) : Bool := x < 16

/-- R103: NNN is a 12-bit address. -/
def addrInRange (nnn : Nat) : Bool := nnn < 4096

/-- R104: NN is an 8-bit immediate. -/
def byteInRange (nn : Nat) : Bool := nn < 256

/-- R104: N is a 4-bit row count. -/
def rowsInRange (n : Nat) : Bool := n < 16

/-- Every operand of the instruction is inside its field's range. -/
def Instr.wellFormed : Instr → Bool
  | .cls | .ret => true
  | .jp nnn | .call nnn | .ldI nnn | .jpV0 nnn => addrInRange nnn.toNat
  | .seImm x nn | .sneImm x nn | .ldImm x nn | .addImm x nn | .rnd x nn =>
    regInRange x.val && byteInRange nn.toNat
  | .seReg x y | .sneReg x y | .ldReg x y | .orReg x y | .andReg x y | .xorReg x y | .addReg x y | .sub x y
  | .shr x y | .subn x y | .shl x y => regInRange x.val && regInRange y.val
  | .drw x y n => regInRange x.val && regInRange y.val && rowsInRange n.val
  | .skp x | .sknp x | .ldVxDt x | .ldVxK x | .ldDtVx x | .ldStVx x | .addIVx x | .ldFVx x | .ldBVx x
  | .ldMemVx x | .ldVxMem x => regInRange x.val

/-- R10: "A model may take any value 12 to 16 as an argument." -/
def Build.wellFormed (b : Build) : Bool := 12 ≤ b.stackDepth && b.stackDepth ≤ 16

/-- R292, R14: a ROM fits when it has at most 0xE00 bytes. -/
def romFits (rom : List Byte) : Bool := rom.length ≤ 0xE00

end Sys2Proof
end

