-- ==== Sys2Proof/Decode.lean ====
section
/-! DEFINITION. Sys2Proof/Decode.lean: the decoder of 30_encoding.md R106 to R112, the encoder from the same opcode map
(R107), and that map itself as match and mask words. -/

namespace Sys2Proof

/-- The answer of the decoder (R106): an instruction, or `Unrecognised(w)`, which raises UnknownOpcode. -/
inductive Decoded where
  | instruction (i : Instr)
  | unrecognised (w : Word)
  deriving DecidableEq, Repr

/-- The number that a 4-bit field holds (R102, R104). -/
def nibbleNumber (f : BitVec 4) : Fin 16 := f.toFin

/-- `w[15:12]`, the primary opcode (R101). -/
def fieldOp (w : Word) : BitVec 4 := w.extractLsb' 12 4

/-- `X = w[11:8]` (R28, R101). -/
def fieldX (w : Word) : Reg := nibbleNumber (w.extractLsb' 8 4)

/-- `Y = w[7:4]` (R28, R101). -/
def fieldY (w : Word) : Reg := nibbleNumber (w.extractLsb' 4 4)

/-- `N = w[3:0]`, as a row count (R28, R104). -/
def fieldN (w : Word) : Fin 16 := nibbleNumber (w.extractLsb' 0 4)

/-- `w[3:0]` as the function code of families 5, 8 and 9 (R104). -/
def fieldFn (w : Word) : BitVec 4 := w.extractLsb' 0 4

/-- `NN = w[7:0]`; in families E and F a function code (R28, R104). -/
def fieldNN (w : Word) : Byte := w.extractLsb' 0 8

/-- `NNN = w[11:0]` (R28, R103). -/
def fieldNNN (w : Word) : Addr12 := w.extractLsb' 0 12

/-- Family 0x0: exactly 0x00E0 and 0x00EE (R108). -/
def decode0 (w : Word) : Decoded :=
  if w = 0x00E0#16 then .instruction .cls
  else if w = 0x00EE#16 then .instruction .ret
  else .unrecognised w

/-- Family 0x8, by the low nibble (R110). -/
def decode8 (w : Word) : Decoded :=
  match fieldFn w with
  | 0x0#4 => .instruction (.ldReg (fieldX w) (fieldY w))
  | 0x1#4 => .instruction (.orReg (fieldX w) (fieldY w))
  | 0x2#4 => .instruction (.andReg (fieldX w) (fieldY w))
  | 0x3#4 => .instruction (.xorReg (fieldX w) (fieldY w))
  | 0x4#4 => .instruction (.addReg (fieldX w) (fieldY w))
  | 0x5#4 => .instruction (.sub (fieldX w) (fieldY w))
  | 0x6#4 => .instruction (.shr (fieldX w) (fieldY w))
  | 0x7#4 => .instruction (.subn (fieldX w) (fieldY w))
  | 0xE#4 => .instruction (.shl (fieldX w) (fieldY w))
  | _ => .unrecognised w

/-- Family 0xE, by the low byte (R111). -/
def decodeE (w : Word) : Decoded :=
  match fieldNN w with
  | 0x9E#8 => .instruction (.skp (fieldX w))
  | 0xA1#8 => .instruction (.sknp (fieldX w))
  | _ => .unrecognised w

/-- Family 0xF, by the low byte (R111). -/
def decodeF (w : Word) : Decoded :=
  match fieldNN w with
  | 0x07#8 => .instruction (.ldVxDt (fieldX w))
  | 0x0A#8 => .instruction (.ldVxK (fieldX w))
  | 0x15#8 => .instruction (.ldDtVx (fieldX w))
  | 0x18#8 => .instruction (.ldStVx (fieldX w))
  | 0x1E#8 => .instruction (.addIVx (fieldX w))
  | 0x29#8 => .instruction (.ldFVx (fieldX w))
  | 0x33#8 => .instruction (.ldBVx (fieldX w))
  | 0x55#8 => .instruction (.ldMemVx (fieldX w))
  | 0x65#8 => .instruction (.ldVxMem (fieldX w))
  | _ => .unrecognised w

/-- Decode (R106): total on every 16-bit word; dispatch on the highest nibble, then the secondary dispatch of
families 0, 5, 8, 9, E and F (R108 to R112). -/
def decode (w : Word) : Decoded :=
  match fieldOp w with
  | 0x0#4 => decode0 w
  | 0x1#4 => .instruction (.jp (fieldNNN w))
  | 0x2#4 => .instruction (.call (fieldNNN w))
  | 0x3#4 => .instruction (.seImm (fieldX w) (fieldNN w))
  | 0x4#4 => .instruction (.sneImm (fieldX w) (fieldNN w))
  | 0x5#4 => if fieldFn w = 0#4 then .instruction (.seReg (fieldX w) (fieldY w)) else .unrecognised w
  | 0x6#4 => .instruction (.ldImm (fieldX w) (fieldNN w))
  | 0x7#4 => .instruction (.addImm (fieldX w) (fieldNN w))
  | 0x8#4 => decode8 w
  | 0x9#4 => if fieldFn w = 0#4 then .instruction (.sneReg (fieldX w) (fieldY w)) else .unrecognised w
  | 0xA#4 => .instruction (.ldI (fieldNNN w))
  | 0xB#4 => .instruction (.jpV0 (fieldNNN w))
  | 0xC#4 => .instruction (.rnd (fieldX w) (fieldNN w))
  | 0xD#4 => .instruction (.drw (fieldX w) (fieldY w) (fieldN w))
  | 0xE#4 => decodeE w
  | _ => decodeF w  -- 0xF#4, the one nibble left

/-- The two bytes of an instruction as its word: the byte at the lower address is the high byte (R85, R100). -/
def wordOfBytes (high low : Byte) : Word := high ++ low

/-- Decode the two bytes that stand at an instruction's address, the lower address first (R85, R106). -/
def decodeBytes (high low : Byte) : Decoded := decode (wordOfBytes high low)

/-! ## The encoder -/

/-- A word with the fields op, X, Y and a low nibble (R101). -/
def packXY (op : BitVec 4) (x y : Reg) (fn : BitVec 4) : Word :=
  op ++ BitVec.ofFin (w := 4) x ++ BitVec.ofFin (w := 4) y ++ fn

/-- A word with the fields op, X and a low byte (R101). -/
def packXNN (op : BitVec 4) (x : Reg) (nn : Byte) : Word := op ++ BitVec.ofFin (w := 4) x ++ nn

/-- A word with the fields op and NNN (R101). -/
def packNNN (op : BitVec 4) (nnn : Addr12) : Word := op ++ nnn

/-- The word of an instruction, from the opcode map (R107). -/
def encode : Instr → Word
  | .cls => 0x00E0#16
  | .ret => 0x00EE#16
  | .jp nnn => packNNN 0x1#4 nnn
  | .call nnn => packNNN 0x2#4 nnn
  | .seImm x nn => packXNN 0x3#4 x nn
  | .sneImm x nn => packXNN 0x4#4 x nn
  | .seReg x y => packXY 0x5#4 x y 0x0#4
  | .ldImm x nn => packXNN 0x6#4 x nn
  | .addImm x nn => packXNN 0x7#4 x nn
  | .ldReg x y => packXY 0x8#4 x y 0x0#4
  | .orReg x y => packXY 0x8#4 x y 0x1#4
  | .andReg x y => packXY 0x8#4 x y 0x2#4
  | .xorReg x y => packXY 0x8#4 x y 0x3#4
  | .addReg x y => packXY 0x8#4 x y 0x4#4
  | .sub x y => packXY 0x8#4 x y 0x5#4
  | .shr x y => packXY 0x8#4 x y 0x6#4
  | .subn x y => packXY 0x8#4 x y 0x7#4
  | .shl x y => packXY 0x8#4 x y 0xE#4
  | .sneReg x y => packXY 0x9#4 x y 0x0#4
  | .ldI nnn => packNNN 0xA#4 nnn
  | .jpV0 nnn => packNNN 0xB#4 nnn
  | .rnd x nn => packXNN 0xC#4 x nn
  | .drw x y n => packXY 0xD#4 x y (BitVec.ofFin (w := 4) n)
  | .skp x => packXNN 0xE#4 x 0x9E#8
  | .sknp x => packXNN 0xE#4 x 0xA1#8
  | .ldVxDt x => packXNN 0xF#4 x 0x07#8
  | .ldVxK x => packXNN 0xF#4 x 0x0A#8
  | .ldDtVx x => packXNN 0xF#4 x 0x15#8
  | .ldStVx x => packXNN 0xF#4 x 0x18#8
  | .addIVx x => packXNN 0xF#4 x 0x1E#8
  | .ldFVx x => packXNN 0xF#4 x 0x29#8
  | .ldBVx x => packXNN 0xF#4 x 0x33#8
  | .ldMemVx x => packXNN 0xF#4 x 0x55#8
  | .ldVxMem x => packXNN 0xF#4 x 0x65#8

/-- The bytes of an instruction in memory order (R85, R100). -/
def encodeBytes (i : Instr) : List Byte := [(encode i).extractLsb' 8 8, (encode i).extractLsb' 0 8]

/-! ## The opcode map as data (R107) -/

/-- The columns `match` and `mask` of the row of R107 that an instruction belongs to, as the table prints them. -/
def Instr.row : Instr → Word × Word
  | .cls => (0x00E0, 0xFFFF)
  | .ret => (0x00EE, 0xFFFF)
  | .jp _ => (0x1000, 0xF000)
  | .call _ => (0x2000, 0xF000)
  | .seImm _ _ => (0x3000, 0xF000)
  | .sneImm _ _ => (0x4000, 0xF000)
  | .seReg _ _ => (0x5000, 0xF00F)
  | .ldImm _ _ => (0x6000, 0xF000)
  | .addImm _ _ => (0x7000, 0xF000)
  | .ldReg _ _ => (0x8000, 0xF00F)
  | .orReg _ _ => (0x8001, 0xF00F)
  | .andReg _ _ => (0x8002, 0xF00F)
  | .xorReg _ _ => (0x8003, 0xF00F)
  | .addReg _ _ => (0x8004, 0xF00F)
  | .sub _ _ => (0x8005, 0xF00F)
  | .shr _ _ => (0x8006, 0xF00F)
  | .subn _ _ => (0x8007, 0xF00F)
  | .shl _ _ => (0x800E, 0xF00F)
  | .sneReg _ _ => (0x9000, 0xF00F)
  | .ldI _ => (0xA000, 0xF000)
  | .jpV0 _ => (0xB000, 0xF000)
  | .rnd _ _ => (0xC000, 0xF000)
  | .drw _ _ _ => (0xD000, 0xF000)
  | .skp _ => (0xE09E, 0xF0FF)
  | .sknp _ => (0xE0A1, 0xF0FF)
  | .ldVxDt _ => (0xF007, 0xF0FF)
  | .ldVxK _ => (0xF00A, 0xF0FF)
  | .ldDtVx _ => (0xF015, 0xF0FF)
  | .ldStVx _ => (0xF018, 0xF0FF)
  | .addIVx _ => (0xF01E, 0xF0FF)
  | .ldFVx _ => (0xF029, 0xF0FF)
  | .ldBVx _ => (0xF033, 0xF0FF)
  | .ldMemVx _ => (0xF055, 0xF0FF)
  | .ldVxMem _ => (0xF065, 0xF0FF)

/-- All rows of R107 (match, mask), in the table's order. -/
def opcodeRows : List (Word × Word) :=
  [(0x00E0, 0xFFFF), (0x00EE, 0xFFFF), (0x1000, 0xF000), (0x2000, 0xF000), (0x3000, 0xF000), (0x4000, 0xF000),
   (0x5000, 0xF00F), (0x6000, 0xF000), (0x7000, 0xF000)] ++
  [(0x8000, 0xF00F), (0x8001, 0xF00F), (0x8002, 0xF00F), (0x8003, 0xF00F), (0x8004, 0xF00F), (0x8005, 0xF00F),
   (0x8006, 0xF00F), (0x8007, 0xF00F), (0x800E, 0xF00F)] ++
  [(0x9000, 0xF00F), (0xA000, 0xF000), (0xB000, 0xF000), (0xC000, 0xF000), (0xD000, 0xF000), (0xE09E, 0xF0FF),
   (0xE0A1, 0xF0FF)] ++
  [(0xF007, 0xF0FF), (0xF00A, 0xF0FF), (0xF015, 0xF0FF), (0xF018, 0xF0FF), (0xF01E, 0xF0FF), (0xF029, 0xF0FF),
   (0xF033, 0xF0FF), (0xF055, 0xF0FF), (0xF065, 0xF0FF)]

/-- "A word w selects row r exactly when `(w & mask_r) = match_r`" (R107). -/
abbrev selectsRow (w : Word) (r : Word × Word) : Prop := w &&& r.2 = r.1

/-- The word that the bits `w` of an instruction stand for; bits above `nbits` are 0. -/
def tableWord (nbits w : Nat) : Word := BitVec.ofNat 16 (w % 2 ^ nbits)

/-- What the decoder reads from an instruction whose bits are `w`, numbered as spec/opcode_table.json numbers them:
the two bytes as they lie in memory are given to `decodeBytes`. -/
def decodeTableWord (nbits w : Nat) : Option Instr :=
  match decodeBytes ((tableWord nbits w).extractLsb' 8 8) ((tableWord nbits w).extractLsb' 0 8) with
  | .instruction i => some i
  | .unrecognised _ => none

end Sys2Proof
end

