-- ==== Sys2Proof/Machine/Parameters.lean ====
section
/-! DEFINITION. Sys2Proof/Machine/Parameters.lean: the values the spec gives the build parameters by default
(00_scope.md R10, R13, R17 to R22). -/

namespace Sys2Proof.Machine

/-- The bytes of the default `FONT_TABLE`: the glyphs 0 to F, five rows each, top row first, the pixels in bits 7 to 4
(10_state.md R47, log 3). -/
def defaultFontBytes : List Byte :=
  [0xF0, 0x90, 0x90, 0x90, 0xF0] ++ [0x20, 0x60, 0x20, 0x20, 0x70] ++
  [0xF0, 0x10, 0xF0, 0x80, 0xF0] ++ [0xF0, 0x10, 0xF0, 0x10, 0xF0] ++
  [0x90, 0x90, 0xF0, 0x10, 0x10] ++ [0xF0, 0x80, 0xF0, 0x10, 0xF0] ++
  [0xF0, 0x80, 0xF0, 0x90, 0xF0] ++ [0xF0, 0x10, 0x20, 0x40, 0x40] ++
  [0xF0, 0x90, 0xF0, 0x90, 0xF0] ++ [0xF0, 0x90, 0xF0, 0x10, 0xF0] ++
  [0xF0, 0x90, 0xF0, 0x90, 0x90] ++ [0xE0, 0x90, 0xE0, 0x90, 0xE0] ++
  [0xF0, 0x80, 0x80, 0x80, 0xF0] ++ [0xE0, 0x90, 0x90, 0x90, 0xE0] ++
  [0xF0, 0x80, 0xF0, 0x80, 0xF0] ++ [0xF0, 0x80, 0xF0, 0x80, 0x80]

/-- The default of `FONT_TABLE` (R13). -/
def defaultFontTable : FontTable := Vector.mk defaultFontBytes.toArray rfl

/-- The default of every build parameter (00_scope.md R10, R13, R17 to R22). -/
def defaultBuild : Build where
  stackDepth := 16
  fontTable := defaultFontTable
  drawWrap := false
  shiftUsesVy := false
  logicResetsVf := false
  loadstoreIncrementsI := false
  jumpOffsetUsesVx := false
  lowWritePolicy := .fault

end Sys2Proof.Machine
end

