-- ==== Sys2Proof/Machine/State.lean ====
section
/-! DEFINITION. Sys2Proof/Machine/State.lean: the state tuple of 10_state.md R40, its reset values (R58), and the
reasons a step could stop (there is none but an arm not yet modelled). -/

namespace Sys2Proof.Machine

/-- The eight fault kinds of 60_exceptions.md R251 to R258, in the order of their codes (R259). A fault of the
block is part of its state (R53); it is no stop of the model. -/
inductive FaultKind where
  /-- code 1, raised by the fetch when pc > 0xFFE (R251) -/
  | fetchOutOfBounds
  /-- code 2, raised by decode for an unrecognised word (R252) -/
  | unknownOpcode
  /-- code 3, raised by RET on an empty stack (R253) -/
  | stackUnderflow
  /-- code 4, raised by CALL on a full stack (R254) -/
  | stackOverflow
  /-- code 5, raised by DXYN, FX33, FX55, FX65 on an effective address of 4096 or more (R255) -/
  | dataOutOfBounds
  /-- code 6, raised by a tick before a ROM is loaded (R256) -/
  | missingRom
  /-- code 7, raised by FX33 and FX55 on a store into the protected range (R257) -/
  | protectedWrite
  /-- code 8, raised by EX9E, EXA1 and FX29 when V[X] > 0x0F (R258) -/
  | operandOutOfRange
  deriving DecidableEq, Repr

/-- The fault record (10_state.md R53). -/
structure FaultRecord where
  /-- which of the eight kinds -/
  kind : FaultKind
  /-- pc when the failing tick began -/
  pcAt : Word
  /-- the fetched word; none if the fault came before a fetch completed -/
  word : Option Word
  deriving DecidableEq, Repr

/-- Memory (R41) as the list of those bytes that differ from what an unlisted address reads as, addresses strictly
rising (Machine/Memory.lean, log 4). -/
abbrev Memory := List Host.Cell

/-- The framebuffer (R49): 64 x 32 one-bit pixels; bit `y*64 + x` is the pixel at column x and row y. -/
abbrev Framebuffer := BitVec 2048

/-- The architectural state (10_state.md R40), and two fields of the model's own: `draws` (log 1) and `build`
(log 2). -/
structure State where
  /-- the 4096 bytes of memory (R41) -/
  mem : Memory
  /-- V0 to VF (R42, R43) -/
  v : Vector Byte 16
  /-- the program counter (R45) -/
  pc : Word
  /-- the index register I (R46) -/
  index : Word
  /-- the call stack (R44), the most recent return address first; sp is its length (log 5) -/
  stack : List Word
  /-- the delay timer DT (R48) -/
  dt : Byte
  /-- the sound timer ST (R48) -/
  st : Byte
  /-- the framebuffer (R49) -/
  fb : Framebuffer
  /-- the redraw-needed flag (R50) -/
  drawFlag : Bool
  /-- which logical keys are down (R51) -/
  keys : Vector Bool 16
  /-- a ROM has been accepted (R52) -/
  romLoaded : Bool
  /-- none, or the record of the first fault (R53) -/
  fault : Option FaultRecord
  /-- the model's own: how many bytes the RNG oracle has given (R23, log 1) -/
  draws : Nat
  /-- the model's own: the parameters the block was built with (R56, log 2) -/
  build : Build
  deriving DecidableEq, Repr

/-- Reasons for which a step stops the machine. NONE: every fault of the block is the record of R53, whose entry
the spec describes whole (R136, R250), so a faulting tick is a next state; no instruction of the spec is without
an effect. Nobody raises a term of this type (log 6). -/
inductive Fault where
  deriving DecidableEq, Repr

/-- Reasons for which the model gives an instruction no meaning. -/
inductive Refusal where
  /-- raised by an arm of `exec` whose instruction has no meaning yet (no arm at present); safe: the run stops -/
  | notModelled (mnemonic : String)
  deriving DecidableEq, Repr

/-- The machine right after RESET (10_state.md R58, 70_reset_and_hazards.md R290). `draws` is a DESIGN CHOICE
(log 1), `build` holds the spec's defaults (log 2). Nothing is listed in memory: an unlisted byte reads as its reset
value. -/
def State.reset : State where
  mem := []
  v := Vector.replicate 16 0#8
  pc := 0x0200#16
  index := 0x0000#16
  stack := []
  dt := 0#8
  st := 0#8
  fb := 0#2048
  drawFlag := false
  keys := Vector.replicate 16 false
  romLoaded := false
  fault := none
  draws := 0
  build := defaultBuild

end Sys2Proof.Machine
end

