-- ==== Sys2Proof/Machine/Memory.lean ====
section
/-! DEFINITION. Sys2Proof/Machine/Memory.lean: memory as a list of cells in one canonical form, its reads and writes,
and the range checks of 20_memory.md R82, R83 and R87. -/

namespace Sys2Proof.Machine

/-- `MEM_SIZE` (00_scope.md R7). -/
abbrev memSize : Nat := 4096

/-- `PROGRAM_BASE` (R14): the ROM load address; below it lies the region of 20_memory.md R87. -/
abbrev programBase : Nat := 0x200

/-- `FONT_SIZE` (R12): the font occupies 0x000 to 0x04F. -/
abbrev fontSize : Nat := 80

/-- What an address that memory does not list reads as: the reset contents of R58, that is the block's FONT_TABLE
(R13) at 0x000 to 0x04F and 0x00 elsewhere. -/
def unlistedByte (font : FontTable) (a : Nat) : Byte := if h : a < fontSize then font[a]'h else 0#8

/-- Every listed address is at least `lo`, below 4096 and above the one before it, and no listed byte equals what
its address reads as when unlisted. -/
def Memory.wfFrom (font : FontTable) (lo : Nat) : Memory → Bool
  | [] => true
  | (a, b) :: rest => lo ≤ a && a < memSize && b != unlistedByte font a && Memory.wfFrom font (a + 1) rest

/-- The canonical form: equal memories of one block are equal lists. -/
def Memory.wf (font : FontTable) (m : Memory) : Bool := Memory.wfFrom font 0 m

/-- `MemRead(addr, 1)` (R27, R84). Callers check the address first (R83). -/
def Memory.read (font : FontTable) : Memory → Nat → Byte
  | [], a => unlistedByte font a
  | (a', b) :: rest, a => if a' = a then b else Memory.read font rest a

/-- The byte's entry put in front of the entries above it, unless the byte is what an unlisted address reads as. -/
def Memory.consCell (font : FontTable) (a : Nat) (b : Byte) (rest : Memory) : Memory :=
  if b = unlistedByte font a then rest else (a, b) :: rest

/-- Put one byte into a canonical list, keeping it canonical. -/
def Memory.put (font : FontTable) (a : Nat) (b : Byte) : Memory → Memory
  | [] => Memory.consCell font a b []
  | (a', b') :: rest =>
    if a < a' then Memory.consCell font a b ((a', b') :: rest)
    else if a = a' then Memory.consCell font a b rest
    else (a', b') :: Memory.put font a b rest

/-- `MemWrite(addr, 1, v)` (R27, R84). Callers check the address first (R83); outside the 4096 bytes there is
nothing to write. -/
def Memory.write (font : FontTable) (m : Memory) (a : Nat) (b : Byte) : Memory :=
  if a < memSize then Memory.put font a b m else m

/-- Write bytes to ascending addresses from `base` (R85, R292). -/
def Memory.writeBytes (font : FontTable) (m : Memory) (base : Nat) : List Byte → Memory
  | [] => m
  | b :: rest => Memory.writeBytes font (Memory.write font m base b) (base + 1) rest

/-- "It is valid if and only if it is < 4096" (R82). -/
def addressValid (a : Nat) : Bool := a < memSize

/-- Whether an instruction's store to `a` is refused by LOW_WRITE_POLICY (R87). -/
def writeProtected (policy : LowWritePolicy) (a : Nat) : Bool :=
  match policy with
  | .fault => a < programBase
  | .permit => a < fontSize

end Sys2Proof.Machine
end

