-- ==== Sys2Proof/Machine/Ops.lean ====
section
/-! DEFINITION. Sys2Proof/Machine/Ops.lean: the operations that the meanings share: registers, memory through I, pc, the
call stack, and raising a fault (10_state.md, 20_memory.md, 60_exceptions.md section 1). -/

namespace Sys2Proof.Machine

/-- What a meaning and a step answer. -/
abbrev StepResult := Host.Outcome State Fault Refusal

/-! ## Numbers -/

/-- `zext_16(v)` of a byte (00_scope.md R26). -/
def zextByte (b : Byte) : Word := b.setWidth 16

/-- `zext_16(NNN)` (30_encoding.md R103). -/
def zextAddr (nnn : Addr12) : Word := nnn.setWidth 16

/-- The byte 1 or 0 of a flag. -/
def flagByte (c : Bool) : Byte := if c then 1#8 else 0#8

/-! ## Registers -/

/-- `V[x]` (R27, R42). -/
def State.reg (s : State) (x : Reg) : Byte := s.v[x.val]

/-- `V[x] <- b` (R27, R42). -/
def State.setReg (x : Reg) (b : Byte) (s : State) : State := { s with v := s.v.set x.val b }

/-- VF, the flag register (10_state.md R43). -/
def regF : Reg := 15

/-- V0, the offset register of BNNN (41_control_flow.md R153). -/
def reg0 : Reg := 0

/-- VX first, then VF: when X = F the flag stands at the end (43_registers_alu.md R170 c). -/
def State.setRegThenFlag (x : Reg) (result flag : Byte) (s : State) : State := (s.setReg x result).setReg regF flag

/-! ## The program counter -/

/-- The part of the fetch that changes state: pc is advanced by 2 before execute (40_cycle.md R133, R29). -/
def State.afterFetch (s : State) : State := { s with pc := s.pc + 2#16 }

/-- `pc <- target`; no target is checked (41_control_flow.md R154). -/
def State.jumpTo (target : Word) (s : State) : State := { s with pc := target }

/-- A skip: when the condition holds, pc passes over one more word (42_skips.md R160). -/
def State.skipIf (cond : Bool) (s : State) : State := if cond then { s with pc := s.pc + 2#16 } else s

/-! ## Faults (the block's exceptions) -/

/-- `raise Fault(kind)`: the tick that began in `s0` is discarded and the record is set (40_cycle.md R136,
60_exceptions.md R250, R261). `w` is the fetched word, none before a fetch completed (R53). There is no return from
a fault in the instruction set (R261); RESET alone clears the record (R290). -/
def State.raise (kind : FaultKind) (w : Option Word) (s0 : State) : State :=
  { s0 with fault := some { kind := kind, pcAt := s0.pc, word := w } }

/-- A fault raised inside the execution of `i` in the tick that began in `s0`. The recorded word is the
instruction's own word, which is the fetched word since the encoding has no unused bit (30_encoding.md R107). -/
def raiseIn (i : Instr) (kind : FaultKind) (s0 : State) : StepResult := .next (s0.raise kind (some (encode i)))

/-- The end of a meaning with a check chain (60_exceptions.md R263): the fault where a check failed, else the
effect. -/
def faultOr (i : Instr) (s0 : State) (check : Option FaultKind) (effect : State) : StepResult :=
  match check with
  | some kind => raiseIn i kind s0
  | none => .next effect

/-! ## The call stack (10_state.md R44) -/

/-- The stack with other contents. -/
def State.setStack (entries : List Word) (s : State) : State := { s with stack := entries }

/-- `Push(a)`: none where the stack already holds STACK_DEPTH entries. -/
def State.push (a : Word) (s : State) : Option State :=
  if s.stack.length < s.build.stackDepth then some (s.setStack (a :: s.stack)) else none

/-- `Pop()`: the popped address and the state without it; none where the stack is empty. -/
def State.pop (s : State) : Option (Word × State) :=
  match s.stack with
  | [] => none
  | a :: rest => some (a, s.setStack rest)

/-! ## Memory through I (20_memory.md R82, R83, R87) -/

/-- The byte at `a`. -/
def State.readByte (s : State) (a : Nat) : Byte := s.mem.read s.build.fontTable a

/-- Bytes written from `base` up. -/
def State.writeFrom (base : Nat) (bytes : List Byte) (s : State) : State :=
  { s with mem := s.mem.writeBytes s.build.fontTable base bytes }

/-- The state's memory is in canonical form (log 4). -/
def State.memWf (s : State) : Bool := s.mem.wf s.build.fontTable

/-- The effective address `I + k`, an exact natural number (R82). -/
def State.effAddr (s : State) (k : Nat) : Nat := s.index.toNat + k

/-- The bounds check of `n` bytes from I: every address is checked before anything is written (R83). -/
def State.boundsCheck (s : State) (n : Nat) : Option FaultKind :=
  if (List.range n).all (fun k => addressValid (s.effAddr k)) then none else some .dataOutOfBounds

/-- The checks of a store of `n` bytes from I: bounds (R83), then the write policy (R87). -/
def State.storeCheck (s : State) (n : Nat) : Option FaultKind :=
  match s.boundsCheck n with
  | some kind => some kind
  | none =>
    if (List.range n).any (fun k => writeProtected s.build.lowWritePolicy (s.effAddr k)) then some .protectedWrite
    else none

/-- Store bytes at I, I + 1, … (R85). -/
def State.storeAtIndex (bytes : List Byte) (s : State) : State := s.writeFrom s.index.toNat bytes

/-- The bytes at I, I + 1, …, `n` of them. -/
def State.loadAtIndex (s : State) (n : Nat) : List Byte := (List.range n).map (fun k => s.readByte (s.effAddr k))

/-- `if LOADSTORE_INCREMENTS_I then I <- (I + X + 1) mod 65536` (R20, 44_index_memory.md R194, R195). -/
def State.bumpIndex (x : Reg) (s : State) : State :=
  if s.build.loadstoreIncrementsI then { s with index := s.index + BitVec.ofNat 16 (x.val + 1) } else s

end Sys2Proof.Machine
end

