-- ==== Sys2Proof/Machine/Flags.lean ====
section
/-! DEFINITION. Sys2Proof/Machine/Flags.lean: every value that an instruction writes to VF as a flag
(10_state.md R43), from the operands read at the start of the instruction (43_registers_alu.md R170 b). The
collision flag is computed with the sprite in Display.lean (45_display.md R212). -/

namespace Sys2Proof.Machine

/-- The carry of 8XY4: the exact sum exceeds 255 (R170 e, R177). -/
def carryFlag (vx vy : Byte) : Byte := flagByte (decide (vx.toNat + vy.toNat > 255))

/-- NOT-borrow of 8XY5 and 8XY7: 1 when the minuend is at least the subtrahend (R170 e, R178, R180). -/
def notBorrowFlag (minuend subtrahend : Byte) : Byte := flagByte (decide (minuend.toNat ≥ subtrahend.toNat))

/-- The bit that 8XY6 shifts out, bit 0 of the source (R179). -/
def shiftedOutRight (src : Byte) : Byte := src &&& 1#8

/-- The bit that 8XYE shifts out, bit 7 of the source (R181). -/
def shiftedOutLeft (src : Byte) : Byte := src >>> 7

/-- `V[X] <- result; if LOGIC_RESETS_VF then V[15] <- 0`, the end of 8XY1, 8XY2 and 8XY3 (R19, R174). -/
def State.setLogicResult (x : Reg) (result : Byte) (s : State) : State :=
  if s.build.logicResetsVf then s.setRegThenFlag x result 0#8 else s.setReg x result

end Sys2Proof.Machine
end

