-- ==== Sys2Proof/Machine/Operands.lean ====
section
/-! DEFINITION. Sys2Proof/Machine/Operands.lean: the operand forms that take more than one register read: the shift source,
the jump offset, key indices, font digits, BCD digits and register blocks. -/

namespace Sys2Proof.Machine

/-- `src <- (SHIFT_USES_VY ? vy : vx)` (00_scope.md R18, 43_registers_alu.md R179, R181). -/
def State.shiftSource (s : State) (x y : Reg) : Byte := if s.build.shiftUsesVy then s.reg y else s.reg x

/-- `r <- (JUMP_OFFSET_USES_VX ? V[X] : V[0])` with X = NNN[11:8] (R21, 41_control_flow.md R153). -/
def State.jumpOffset (s : State) (nnn : Addr12) : Byte :=
  if s.build.jumpOffsetUsesVx then s.reg (nibbleNumber (nnn.extractLsb' 8 4)) else s.reg reg0

/-- A register value as a number 0x0 to 0xF, for a key index or a font digit; none above 0xF, where the spec
raises OperandOutOfRange and does not mask (42_skips.md R167, 44_index_memory.md R192). -/
def digitOf (b : Byte) : Option (Fin 16) := if h : b.toNat < 16 then some (Fin.mk b.toNat h) else none

/-- Whether key `k` is down (10_state.md R51). -/
def State.keyDown (s : State) (k : Fin 16) : Bool := s.keys[k.val]

/-- `min { k | keys[k] }`, none while no key is down (46_timers_keys_random.md R232). -/
def State.lowestKeyDown (s : State) : Option (Fin 16) := (List.finRange 16).find? (fun k => s.keyDown k)

/-- A key number as a register value. -/
def keyByte (k : Fin 16) : Byte := BitVec.ofNat 8 k.val

/-- `FONT_BASE + 5*d`, the address of glyph d (10_state.md R47, 44_index_memory.md R192). -/
def glyphAddress (d : Fin 16) : Word := BitVec.ofNat 16 (5 * d.val)

/-- Hundreds, tens and units of a byte (44_index_memory.md R193). -/
def bcdDigits (v : Byte) : List Byte := [v / 100#8, v / 10#8 % 10#8, v % 10#8]

/-- V0 to VX, the registers of FX55 and FX65 (R194, R195). -/
def regsUpTo (x : Reg) : List Reg := (List.finRange 16).filter (fun k => k ≤ x)

/-- The values of V0 to VX, in order. -/
def State.regBlock (s : State) (x : Reg) : List Byte := (regsUpTo x).map s.reg

/-- `for k in 0..X: V[k] <- MemRead(I + k, 1)`; the registers above X are unchanged (R195). -/
def State.loadRegBlock (x : Reg) (s : State) : State :=
  { s with v := Vector.ofFn (fun k : Fin 16 => if k ≤ x then s.readByte (s.effAddr k.val) else s.reg k) }

end Sys2Proof.Machine
end

