-- ==== Sys2Proof/Machine/Alu.lean ====
section
/-! DEFINITION. Sys2Proof/Machine/Alu.lean: register loads and 8-bit arithmetic and logic (43_registers_alu.md). All operands
are read from `s`, before any write (R170 b). -/

namespace Sys2Proof.Machine

/-- 6XNN (R171). -/
def execLdImm (x : Reg) (nn : Byte) (s : State) : StepResult := .next (s.afterFetch.setReg x nn)

/-- 7XNN (R172): no carry is recorded. -/
def execAddImm (x : Reg) (nn : Byte) (s : State) : StepResult := .next (s.afterFetch.setReg x (s.reg x + nn))

/-- 8XY0 (R173). -/
def execLdReg (x y : Reg) (s : State) : StepResult := .next (s.afterFetch.setReg x (s.reg y))

/-- 8XY1 (R174). -/
def execOrReg (x y : Reg) (s : State) : StepResult := .next (s.afterFetch.setLogicResult x (s.reg x ||| s.reg y))

/-- 8XY2 (R175). -/
def execAndReg (x y : Reg) (s : State) : StepResult := .next (s.afterFetch.setLogicResult x (s.reg x &&& s.reg y))

/-- 8XY3 (R176). -/
def execXorReg (x y : Reg) (s : State) : StepResult := .next (s.afterFetch.setLogicResult x (s.reg x ^^^ s.reg y))

/-- 8XY4 (R177). -/
def execAddReg (x y : Reg) (s : State) : StepResult :=
  .next (s.afterFetch.setRegThenFlag x (s.reg x + s.reg y) (carryFlag (s.reg x) (s.reg y)))

/-- 8XY5 (R178). -/
def execSub (x y : Reg) (s : State) : StepResult :=
  .next (s.afterFetch.setRegThenFlag x (s.reg x - s.reg y) (notBorrowFlag (s.reg x) (s.reg y)))

/-- 8XY6 (R179). -/
def execShr (x y : Reg) (s : State) : StepResult :=
  .next (s.afterFetch.setRegThenFlag x (s.shiftSource x y >>> 1) (shiftedOutRight (s.shiftSource x y)))

/-- 8XY7 (R180). -/
def execSubn (x y : Reg) (s : State) : StepResult :=
  .next (s.afterFetch.setRegThenFlag x (s.reg y - s.reg x) (notBorrowFlag (s.reg y) (s.reg x)))

/-- 8XYE (R181). -/
def execShl (x y : Reg) (s : State) : StepResult :=
  .next (s.afterFetch.setRegThenFlag x (s.shiftSource x y <<< 1) (shiftedOutLeft (s.shiftSource x y)))

end Sys2Proof.Machine
end

