-- ==== Sys2Proof/Machine/ControlFlow.lean ====
section
/-! DEFINITION. Sys2Proof/Machine/ControlFlow.lean: RET, JP, CALL and JP V0 (41_control_flow.md). A meaning takes the state
in which the tick began; `afterFetch` is that state with pc advanced (40_cycle.md R133). -/

namespace Sys2Proof.Machine

/-- 00EE (R150): pop into pc; StackUnderflow on an empty stack. -/
def execRet (s : State) : StepResult :=
  match s.afterFetch.pop with
  | none => raiseIn .ret .stackUnderflow s
  | some (a, s') => .next (s'.jumpTo a)

/-- 1NNN (R151). -/
def execJp (nnn : Addr12) (s : State) : StepResult := .next (s.afterFetch.jumpTo (zextAddr nnn))

/-- 2NNN (R152): push the address of the next instruction and jump; StackOverflow on a full stack. -/
def execCall (nnn : Addr12) (s : State) : StepResult :=
  match s.afterFetch.push s.afterFetch.pc with
  | none => raiseIn (.call nnn) .stackOverflow s
  | some s' => .next (s'.jumpTo (zextAddr nnn))

/-- BNNN (R153): `pc <- zext_16(NNN) + zext_16(r)`. -/
def execJpV0 (nnn : Addr12) (s : State) : StepResult :=
  .next (s.afterFetch.jumpTo (zextAddr nnn + zextByte (s.jumpOffset nnn)))

end Sys2Proof.Machine
end

