-- ==== Sys2Proof/Machine/Display.lean ====
section
/-! DEFINITION. Sys2Proof/Machine/Display.lean: the display engine, CLS and DRW with collision detection (45_display.md). -/

namespace Sys2Proof.Machine

/-- `SCREEN_W` (00_scope.md R11). -/
abbrev screenW : Nat := 64

/-- `SCREEN_H` (R11). -/
abbrev screenH : Nat := 32

/-- The row-major linear index `y*64 + x` of a pixel (10_state.md R49). -/
def pixelIndex (x y : Nat) : Nat := y * screenW + x

/-- `fb[x, y]` (R49). -/
def Framebuffer.pixel (fb : Framebuffer) (x y : Nat) : Bool := fb.getLsbD (pixelIndex x y)

/-- `fb[x, y] <- fb[x, y] ^ 1`. -/
def Framebuffer.flip (fb : Framebuffer) (x y : Nat) : Framebuffer := fb ^^^ (1#2048 <<< pixelIndex x y)

/-- `place(x, y)` (R213): the pixel of the screen that a sprite pixel falls on; none where it is clipped. -/
def place (wrap : Bool) (x y : Nat) : Option (Nat × Nat) :=
  if wrap then some (x % screenW, y % screenH)
  else if x < screenW ∧ y < screenH then some (x, y)
  else none

/-- What the sprite loop carries: the framebuffer and `col`, the collision so far (R211, R212). -/
structure Raster where
  fb : Framebuffer
  col : Bool
  deriving DecidableEq, Repr

/-- One sprite bit at sprite position (x, y): a bit of 1 on the screen flips its pixel, and collides when the pixel
was on (R211, R212). -/
def drawBit (wrap : Bool) (bit : Bool) (x y : Nat) (r : Raster) : Raster :=
  match bit, place wrap x y with
  | true, some (px, py) => { fb := r.fb.flip px py, col := r.col || r.fb.pixel px py }
  | _, _ => r

/-- One sprite row: the bits of a byte, the most significant at the left (R211). -/
def drawRow (wrap : Bool) (x0 y : Nat) (b : Byte) (r : Raster) : Raster :=
  (List.range 8).foldl (fun r c => drawBit wrap (b.getLsbD (7 - c)) (x0 + c) y r) r

/-- The rows of a sprite, top to bottom (R211, R214). -/
def drawRows (wrap : Bool) (x0 y : Nat) : List Byte → Raster → Raster
  | [], r => r
  | b :: rest, r => drawRows wrap x0 (y + 1) rest (drawRow wrap x0 y b r)

/-- A whole sprite on the framebuffer, with `col` 0 before it (R211, R212). -/
def drawSprite (wrap : Bool) (x0 y0 : Nat) (rows : List Byte) (fb : Framebuffer) : Raster :=
  drawRows wrap x0 y0 rows { fb := fb, col := false }

/-- The start column `V[X] mod 64` (R211, R213). -/
def startColumn (b : Byte) : Nat := b.toNat % screenW

/-- The start row `V[Y] mod 32` (R211, R213). -/
def startRow (b : Byte) : Nat := b.toNat % screenH

/-- The raster that DXYN computes: the coordinates are read before VF is written (R211). -/
def State.spriteRaster (s : State) (x y : Reg) (n : Fin 16) : Raster :=
  drawSprite s.build.drawWrap (startColumn (s.reg x)) (startRow (s.reg y)) (s.loadAtIndex n.val) s.fb

/-- Put a drawn framebuffer into the state: `V[15] <- col; draw_flag <- true` (R211, 10_state.md R50). -/
def State.showRaster (r : Raster) (s : State) : State :=
  ({ s with fb := r.fb, drawFlag := true }).setReg regF (flagByte r.col)

/-- Every pixel off, and the redraw flag set (R210, 10_state.md R50). -/
def State.clearScreen (s : State) : State := { s with fb := 0#2048, drawFlag := true }

/-- 00E0 (R210). -/
def execCls (s : State) : StepResult := .next s.afterFetch.clearScreen

/-- DXYN (R211): every row address is checked, then the sprite is drawn, VF is the collision and the redraw flag is
set, also for N = 0. -/
def execDrw (x y : Reg) (n : Fin 16) (s : State) : StepResult :=
  faultOr (.drw x y n) s (s.boundsCheck n.val) (s.afterFetch.showRaster (s.spriteRaster x y n))

end Sys2Proof.Machine
end

