-- ==== Sys2Proof/Machine/IndexMemory.lean ====
section
/-! DEFINITION. Sys2Proof/Machine/IndexMemory.lean: the index register and the memory block instructions
(44_index_memory.md). Every address is checked before any write (20_memory.md R83). -/

namespace Sys2Proof.Machine

/-- `I <- w`. -/
def State.setIndex (w : Word) (s : State) : State := { s with index := w }

/-- ANNN (R190). -/
def execLdI (nnn : Addr12) (s : State) : StepResult := .next (s.afterFetch.setIndex (zextAddr nnn))

/-- FX1E (R191): modulo 65536, VF unchanged. -/
def execAddIVx (x : Reg) (s : State) : StepResult := .next (s.afterFetch.setIndex (s.index + zextByte (s.reg x)))

/-- FX29 (R192): OperandOutOfRange when VX > 0xF. -/
def execLdFVx (x : Reg) (s : State) : StepResult :=
  match digitOf (s.reg x) with
  | none => raiseIn (.ldFVx x) .operandOutOfRange s
  | some d => .next (s.afterFetch.setIndex (glyphAddress d))

/-- FX33 (R193): three BCD digits at I. -/
def execLdBVx (x : Reg) (s : State) : StepResult :=
  faultOr (.ldBVx x) s (s.storeCheck 3) (s.afterFetch.storeAtIndex (bcdDigits (s.reg x)))

/-- FX55 (R194): V0 to VX at I. -/
def execLdMemVx (x : Reg) (s : State) : StepResult :=
  faultOr (.ldMemVx x) s (s.storeCheck (x.val + 1)) ((s.afterFetch.storeAtIndex (s.regBlock x)).bumpIndex x)

/-- FX65 (R195): V0 to VX from I; reads below 0x200 are permitted. -/
def execLdVxMem (x : Reg) (s : State) : StepResult :=
  faultOr (.ldVxMem x) s (s.boundsCheck (x.val + 1)) ((s.afterFetch.loadRegBlock x).bumpIndex x)

end Sys2Proof.Machine
end

