-- ==== Sys2Proof/Machine/Skips.lean ====
section
/-! DEFINITION. Sys2Proof/Machine/Skips.lean: the conditional skips (42_skips.md). -/

namespace Sys2Proof.Machine

/-- 3XNN (R161). -/
def execSeImm (x : Reg) (nn : Byte) (s : State) : StepResult :=
  .next (s.afterFetch.skipIf (decide (s.reg x = nn)))

/-- 4XNN (R162). -/
def execSneImm (x : Reg) (nn : Byte) (s : State) : StepResult :=
  .next (s.afterFetch.skipIf (decide (s.reg x ≠ nn)))

/-- 5XY0 (R163). -/
def execSeReg (x y : Reg) (s : State) : StepResult :=
  .next (s.afterFetch.skipIf (decide (s.reg x = s.reg y)))

/-- 9XY0 (R164). -/
def execSneReg (x y : Reg) (s : State) : StepResult :=
  .next (s.afterFetch.skipIf (decide (s.reg x ≠ s.reg y)))

/-- EX9E (R165): skip if the key named by VX is down; OperandOutOfRange when VX > 0xF (R167). -/
def execSkp (x : Reg) (s : State) : StepResult :=
  match digitOf (s.reg x) with
  | none => raiseIn (.skp x) .operandOutOfRange s
  | some k => .next (s.afterFetch.skipIf (s.keyDown k))

/-- EXA1 (R166): skip if the key named by VX is up; OperandOutOfRange when VX > 0xF (R167). -/
def execSknp (x : Reg) (s : State) : StepResult :=
  match digitOf (s.reg x) with
  | none => raiseIn (.sknp x) .operandOutOfRange s
  | some k => .next (s.afterFetch.skipIf (!s.keyDown k))

end Sys2Proof.Machine
end

