-- ==== Sys2Proof/Machine/TimersKeysRandom.lean ====
section
/-! DEFINITION. Sys2Proof/Machine/TimersKeysRandom.lean: random, timer and key-wait instructions
(46_timers_keys_random.md). -/

namespace Sys2Proof.Machine

/-- `Rand8()`: the next byte of the oracle (00_scope.md R23). -/
def State.rand8 (s : State) : Byte := Config.randomByte s.draws

/-- The oracle has given one more byte (log 1). -/
def State.countDraw (s : State) : State := { s with draws := s.draws + 1 }

/-- `DT <- b` (10_state.md R48). -/
def State.setDelay (b : Byte) (s : State) : State := { s with dt := b }

/-- `ST <- b` (R48). -/
def State.setSound (b : Byte) (s : State) : State := { s with st := b }

/-- CXNN (R230): a fresh unconstrained byte, masked. -/
def execRnd (x : Reg) (nn : Byte) (s : State) : StepResult := .next (s.afterFetch.countDraw.setReg x (s.rand8 &&& nn))

/-- FX07 (R231). -/
def execLdVxDt (x : Reg) (s : State) : StepResult := .next (s.afterFetch.setReg x s.dt)

/-- FX0A (R232): the lowest key down, or the same instruction again. -/
def execLdVxK (x : Reg) (s : State) : StepResult :=
  match s.lowestKeyDown with
  | some k => .next (s.afterFetch.setReg x (keyByte k))
  | none => .next (s.afterFetch.jumpTo (s.afterFetch.pc - 2#16))

/-- FX15 (R233). -/
def execLdDtVx (x : Reg) (s : State) : StepResult := .next (s.afterFetch.setDelay (s.reg x))

/-- FX18 (R234). -/
def execLdStVx (x : Reg) (s : State) : StepResult := .next (s.afterFetch.setSound (s.reg x))

end Sys2Proof.Machine
end

