-- ==== Sys2Proof/Machine/Fetch.lean ====
section
/-! DEFINITION. Sys2Proof/Machine/Fetch.lean: what a tick does before it executes an instruction (40_cycle.md R130 to
R134), and how an instruction word is placed for a fetch. -/

namespace Sys2Proof.Machine

/-- HALTED: a fault is recorded (R130, 60_exceptions.md R260). -/
def State.halted (s : State) : Bool := s.fault.isSome

/-- "While `fault ≠ none`, a tick changes no state" (R260, R138). -/
def haltedTick (s : State) : State := s

/-- The checks before a fetch, in their order: MissingRom (R131), then FetchOutOfBounds when pc > 0xFFE (R132). -/
def State.fetchCheck (s : State) : Option FaultKind :=
  if s.romLoaded = false then some .missingRom
  else if s.pc.toNat > 0xFFE then some .fetchOutOfBounds
  else none

/-- The byte at pc, the high byte of the word (R133, 20_memory.md R85). -/
def State.fetchHigh (s : State) : Byte := s.readByte s.pc.toNat

/-- The byte at pc + 1, the low byte of the word (R133, R85). -/
def State.fetchLow (s : State) : Byte := s.readByte (s.pc.toNat + 1)

/-- The fetched word (R133). -/
def State.fetchWord (s : State) : Word := wordOfBytes s.fetchHigh s.fetchLow

/-- Where `withFetchWord` places a word: at pc, or at 0x200 where nothing can be fetched from pc. -/
def State.placeAddress (s : State) : Word := if s.pc.toNat ≤ 0xFFE then s.pc else BitVec.ofNat 16 programBase

/-- The two bytes of `w` written big-endian at `a` (R85). -/
def Memory.writeWord (font : FontTable) (m : Memory) (a : Nat) (w : Word) : Memory :=
  m.writeBytes font a [w.extractLsb' 8 8, w.extractLsb' 0 8]

/-- `w` stands where the next tick fetches, a ROM counts as loaded and the block is in RUN (log 7). -/
def State.placeWord (s : State) (w : Word) : State :=
  { s with
    mem := s.mem.writeWord s.build.fontTable s.placeAddress.toNat w, pc := s.placeAddress, romLoaded := true, fault := none }

end Sys2Proof.Machine
end

