-- ==== Sys2Proof/Machine/Step.lean ====
section
/-! DEFINITION. Sys2Proof/Machine/Step.lean: one TICK (40_cycle.md R138). -/

namespace Sys2Proof.Machine

/-- TICK (R138): nothing while HALTED; else the checks before the fetch, the fetch, decode, and the one handler. -/
def step (s : State) : Host.Outcome State Fault Refusal :=
  if s.halted then .next (haltedTick s)
  else
    match s.fetchCheck with
    | some kind => .next (s.raise kind none)
    | none =>
      match decodeBytes s.fetchHigh s.fetchLow with
      | .unrecognised w => .next (s.raise .unknownOpcode (some w))
      | .instruction i => exec i s

/-- `s` with the instruction whose bits are `w` standing where the next step fetches (log 7). -/
def State.withFetchWord (s : State) (nbits w : Nat) : State := s.placeWord (tableWord nbits w)

end Sys2Proof.Machine
end

