-- ==== Sys2Proof/Machine/HostInterface.lean ====
section
/-! DEFINITION. Sys2Proof/Machine/HostInterface.lean: the host's transactions other than TICK (60_exceptions.md R270 to
R276, 70_reset_and_hazards.md R290, R292). -/

namespace Sys2Proof.Machine

/-- RESET (R290): every state element takes its reset value (10_state.md R58). The build parameters are fixed (R56,
log 2) and the oracle goes on (R23, log 1). -/
def State.resetBlock (s : State) : State := { State.reset with build := s.build, draws := s.draws }

/-- What LOAD_ROM answers (R292). -/
inductive LoadStatus where
  | ok
  | romTooLarge
  deriving DecidableEq, Repr

/-- The bytes of a ROM from 0x200 up, and rom_loaded (R292). -/
def State.placeRom (rom : List Byte) (s : State) : State :=
  { s.writeFrom programBase rom with romLoaded := true }

/-- LOAD_ROM (R292): copy to 0x200 and set rom_loaded, or answer RomTooLarge and change nothing. -/
def State.loadRom (rom : List Byte) (s : State) : State × LoadStatus :=
  if romFits rom then (s.placeRom rom, .ok) else (s, .romTooLarge)

/-- A timer's decrement: "never decremented below zero" (10_state.md R48, R270). -/
def countDown (t : Byte) : Byte := if t = 0#8 then t else t - 1#8

/-- TIMER_TICK (R270): both timers. -/
def State.timerTick (s : State) : State := { s with dt := countDown s.dt, st := countDown s.st }

/-- KEY_SET (R271). -/
def State.keySet (k : Fin 16) (down : Bool) (s : State) : State := { s with keys := s.keys.set k.val down }

/-- FB_READ (R272): the 2048 pixels in row-major order. -/
def State.fbRead (s : State) : List Bool :=
  (List.range (screenW * screenH)).map (fun k => s.fb.pixel (k % screenW) (k / screenW))

/-- ACK_FRAME (R273). -/
def State.ackFrame (s : State) : State := { s with drawFlag := false }

/-- The code of a fault kind (R259). FAULT_STATUS (R275) answers the record itself. -/
def FaultKind.code : FaultKind → Nat
  | .fetchOutOfBounds => 1
  | .unknownOpcode => 2
  | .stackUnderflow => 3
  | .stackOverflow => 4
  | .dataOutOfBounds => 5
  | .missingRom => 6
  | .protectedWrite => 7
  | .operandOutOfRange => 8

/-- TONE (R274, 10_state.md R55): the continuous output `ST ≠ 0`. -/
def State.tone (s : State) : Bool := s.st != 0#8

end Sys2Proof.Machine
end

