-- ==== Sys2Proof/Machine/Transactions.lean ====
section
/-! DEFINITION. Sys2Proof/Machine/Transactions.lean: the block's complete interface (60_exceptions.md R276): ten indivisible
transactions that the host issues one at a time, in any order (20_memory.md R91, R277). -/

namespace Sys2Proof.Machine

/-- The ten transactions of R276. -/
inductive Transaction where
  /-- RESET (R290) -/
  | reset
  /-- LOAD_ROM (R292) -/
  | loadRom (rom : List Byte)
  /-- TICK (R138) -/
  | tick
  /-- TIMER_TICK (R270) -/
  | timerTick
  /-- KEY_SET (R271); the argument is 4 bits -/
  | keySet (k : Fin 16) (down : Bool)
  /-- FB_READ (R272) -/
  | fbRead
  /-- DRAW_FLAG (R273) -/
  | drawFlag
  /-- ACK_FRAME (R273) -/
  | ackFrame
  /-- TONE (R274) -/
  | tone
  /-- FAULT_STATUS (R275) -/
  | faultStatus
  deriving DecidableEq, Repr

/-- What a transaction answers to the host (R276's result column). -/
inductive Reply where
  /-- no result -/
  | done
  /-- LOAD_ROM's status -/
  | load (status : LoadStatus)
  /-- FB_READ's 2048 bits -/
  | pixels (bits : List Bool)
  /-- DRAW_FLAG's and TONE's Bool -/
  | bool (b : Bool)
  /-- FAULT_STATUS's record -/
  | fault (f : Option FaultRecord)
  deriving DecidableEq, Repr

/-- The effect and the reply of one transaction. -/
def transact (t : Transaction) (s : State) : Host.Outcome (State × Reply) Fault Refusal :=
  match t with
  | .reset => .next (s.resetBlock, .done)
  | .loadRom rom => .next ((s.loadRom rom).1, .load (s.loadRom rom).2)
  | .tick =>
    match step s with
    | .next s' => .next (s', .done)
    | .fault r => .fault r
    | .refused r => .refused r
  | .timerTick => .next (s.timerTick, .done)
  | .keySet k down => .next (s.keySet k down, .done)
  | .fbRead => .next (s, .pixels s.fbRead)
  | .drawFlag => .next (s, .bool s.drawFlag)
  | .ackFrame => .next (s.ackFrame, .done)
  | .tone => .next (s, .bool s.tone)
  | .faultStatus => .next (s, .fault s.fault)

/-- A schedule: the host's transactions one after another, in the order it issues them (R91, R277, R306). -/
def runSchedule : List Transaction → State → Host.Outcome State Fault Refusal
  | [], s => .next s
  | t :: rest, s =>
    match transact t s with
    | .next (s', _) => runSchedule rest s'
    | .fault r => .fault r
    | .refused r => .refused r

end Sys2Proof.Machine
end

