-- ==== Sys2Proof/Safety.lean ====
section
/-! DEFINITION. Sys2Proof/Safety.lean: what a safe run is, and the invariant that every transaction keeps. -/

namespace Sys2Proof.Machine

/-- The block is in RUN (40_cycle.md R130). -/
abbrev State.inRun (s : State) : Prop := s.fault = none

/-- A state that some schedule of transactions reaches from RESET, with any build parameters the spec allows and
with any part of the oracle's bytes already drawn. -/
def State.Reachable (s : State) : Prop :=
  ∃ (b : Build) (n : Nat) (ts : List Transaction),
    b.wellFormed = true ∧ runSchedule ts { State.reset with build := b, draws := n } = .next s

/-- A schedule runs without a fault: no state on its way has a fault record (60_exceptions.md R260: HALTED is never a
successful end). -/
def safeRun : List Transaction → State → Bool
  | [], s => s.fault.isNone
  | t :: rest, s =>
    s.fault.isNone &&
      match transact t s with
      | .next (s', _) => safeRun rest s'
      | .fault _ => false
      | .refused _ => false

/-- What holds of the block from RESET on. -/
structure State.Inv (s : State) : Prop where
  /-- memory is in canonical form -/
  memWf : s.memWf = true
  /-- the font region holds FONT_TABLE (20_memory.md R88) -/
  fontIntact : ∀ a (h : a < fontSize), s.readByte a = s.build.fontTable[a]'h
  /-- the parameters are in the spec's range (00_scope.md R10) -/
  buildWf : s.build.wellFormed = true
  /-- 0 ≤ sp ≤ STACK_DEPTH (10_state.md R44) -/
  stackBounded : s.stack.length ≤ s.build.stackDepth
  /-- a stack entry is at most 0x1000 (41_control_flow.md R150) -/
  stackEntries : ∀ a ∈ s.stack, a.toNat ≤ 0x1000
  /-- pc never exceeds 0x10FE (10_state.md R45) -/
  pcBounded : s.pc.toNat ≤ 0x10FE
  /-- a recorded fault is that of the tick that began at pc, and has a word exactly where R259 says so -/
  faultPrecise : ∀ r, s.fault = some r →
    r.pcAt = s.pc ∧ (r.word = none ↔ r.kind = .fetchOutOfBounds ∨ r.kind = .missingRom)

end Sys2Proof.Machine
end

