-- ==== Sys2Proof/Certificates/Slice0/Obligations.lean ====
section
/-! DEFINITION. Sys2Proof/Certificates/Slice0/Obligations.lean: the statements about the model, each from the spec's rules.
Frames are said through `OnlyChanges`: which elements of the state may differ after an instruction, one element a
register and one element a byte of memory. -/

namespace Sys2Proof.Claims

open Sys2Proof.Machine

/-! ## The words that the statements use -/

/-- The elements of the state (10_state.md R40), each register and each byte of memory by itself, and the model's two
own fields (log 1, log 2). -/
inductive Elem where
  | reg (r : Reg)
  | byte (a : Nat)
  | pc | index | stack | dt | st | fb | drawFlag | keys | romLoaded | fault | draws | build
  deriving DecidableEq, Repr

/-- The element reads the same in both states; a byte of memory through the model's read of one byte. -/
def Same (s t : State) : Elem → Prop
  | .reg r => t.reg r = s.reg r
  | .byte a => t.readByte a = s.readByte a
  | .pc => t.pc = s.pc
  | .index => t.index = s.index
  | .stack => t.stack = s.stack
  | .dt => t.dt = s.dt
  | .st => t.st = s.st
  | .fb => t.fb = s.fb
  | .drawFlag => t.drawFlag = s.drawFlag
  | .keys => t.keys = s.keys
  | .romLoaded => t.romLoaded = s.romLoaded
  | .fault => t.fault = s.fault
  | .draws => t.draws = s.draws
  | .build => t.build = s.build

/-- Every element that `may` does not name reads in `t` as in `s`. -/
def OnlyChanges (may : Elem → Prop) (s t : State) : Prop := ∀ e, ¬ may e → Same s t e

/-- The elements of a list. -/
def among (es : List Elem) (e : Elem) : Prop := e ∈ es

/-- The elements of a list, and the `n` bytes at the effective addresses `I + 0` to `I + (n - 1)` of `s`, computed
with the meanings' own `effAddr` (20_memory.md R82). -/
def storing (s : State) (n : Nat) (es : List Elem) (e : Elem) : Prop :=
  e ∈ es ∨ ∃ k, k < n ∧ e = .byte (s.effAddr k)

/-- `exec i s` answers a next state, which differs from `s` in the elements of `may` at most and meets `post`. -/
def Runs (i : Instr) (s : State) (may : Elem → Prop) (post : State → Prop) : Prop :=
  ∃ t, exec i s = .next t ∧ OnlyChanges may s t ∧ post t

/-- `i` raises the fault `kind` in `s`: the next state is `s` with the record {kind, pc, word of i} and nothing else
(40_cycle.md R136, 10_state.md R53). -/
def Faults (i : Instr) (s : State) (kind : FaultKind) : Prop :=
  exec i s = .next { s with fault := some { kind := kind, pcAt := s.pc, word := some (encode i) } }

/-- The two bytes at pc and pc + 1 as the spec combines them: `mem[pc]*256 + mem[pc+1]` (20_memory.md R85). -/
def fetchedNumber (s : State) : Nat := (s.readByte s.pc.toNat).toNat * 256 + (s.readByte (s.pc.toNat + 1)).toNat

/-- The next tick of `s` fetches and runs `i`: RUN, a ROM is loaded, pc is in range, and the word decodes to `i`. -/
def Fetches (s : State) (i : Instr) : Prop :=
  s.fault = none ∧ s.romLoaded = true ∧ s.pc.toNat ≤ 0xFFE ∧
    decode (BitVec.ofNat 16 (fetchedNumber s)) = .instruction i

/-- A word from its four nibbles (30_encoding.md R101). -/
def wordXY (op x y fn : Nat) : Word := BitVec.ofNat 16 (op * 4096 + x * 256 + y * 16 + fn)

/-- A word from op, X and the low byte (R101). -/
def wordXNN (op x nn : Nat) : Word := BitVec.ofNat 16 (op * 4096 + x * 256 + nn)

/-- A word from op and NNN (R101). -/
def wordNNN (op nnn : Nat) : Word := BitVec.ofNat 16 (op * 4096 + nnn)

/-- The word decodes to the instruction. -/
def Encodes (w : Word) (i : Instr) : Prop := decode w = .instruction i

/-- Every effective address `I + 0` to `I + (n - 1)` is a valid address (R82). -/
def InBounds (s : State) (n : Nat) : Prop := ∀ k, k < n → s.index.toNat + k < 4096

/-- Some effective address of `n` bytes from I lies where LOW_WRITE_POLICY forbids a store: below 0x200 under
`fault`, below 0x050 under `permit` (R87). -/
def HitsProtected (s : State) (n : Nat) : Prop :=
  ∃ k, k < n ∧ s.index.toNat + k < (if s.build.lowWritePolicy = .fault then 0x200 else 0x050)

/-- The sprite of DXYN in state `s` has a bit of 1 that falls on the screen's pixel (px, py) (45_display.md R211,
R213): row r of memory[I + r], bit 7 - c at column c. -/
def SpriteCovers (s : State) (x y : Reg) (n : Fin 16) (px py : Nat) : Prop :=
  ∃ r c, r < n.val ∧ c < 8 ∧ (s.readByte (s.index.toNat + r)).getLsbD (7 - c) = true ∧
    (if s.build.drawWrap then
      px = ((s.reg x).toNat % 64 + c) % 64 ∧ py = ((s.reg y).toNat % 32 + r) % 32
    else
      px = (s.reg x).toNat % 64 + c ∧ py = (s.reg y).toNat % 32 + r)

/-- The sprite turns a lit pixel of the screen off (R212). -/
def SpriteCollides (s : State) (x y : Reg) (n : Fin 16) : Prop :=
  ∃ px py, px < 64 ∧ py < 32 ∧ SpriteCovers s x y n px py ∧ s.fb.pixel px py = true

/-- When a tick of a state in RUN raises each kind of fault (60_exceptions.md R251 to R259). -/
def RaisedBy (s : State) : FaultKind → Prop
  | .missingRom => s.romLoaded = false
  | .fetchOutOfBounds => s.romLoaded = true ∧ s.pc.toNat > 0xFFE
  | .unknownOpcode => s.romLoaded = true ∧ s.pc.toNat ≤ 0xFFE ∧
      decode (BitVec.ofNat 16 (fetchedNumber s)) = .unrecognised (BitVec.ofNat 16 (fetchedNumber s))
  | .stackUnderflow => Fetches s .ret ∧ s.stack = []
  | .stackOverflow => (∃ nnn, Fetches s (.call nnn)) ∧ s.stack.length = s.build.stackDepth
  | .dataOutOfBounds =>
      (∃ x y n, Fetches s (.drw x y n) ∧ ¬ InBounds s n.val) ∨
      (∃ x, Fetches s (.ldBVx x) ∧ ¬ InBounds s 3) ∨
      (∃ x, (Fetches s (.ldMemVx x) ∨ Fetches s (.ldVxMem x)) ∧ ¬ InBounds s (x.val + 1))
  | .protectedWrite =>
      (∃ x, Fetches s (.ldBVx x) ∧ InBounds s 3 ∧ HitsProtected s 3) ∨
      (∃ x, Fetches s (.ldMemVx x) ∧ InBounds s (x.val + 1) ∧ HitsProtected s (x.val + 1))
  | .operandOutOfRange =>
      ∃ x, (Fetches s (.skp x) ∨ Fetches s (.sknp x) ∨ Fetches s (.ldFVx x)) ∧ (s.reg x).toNat > 0xF

/-- The general registers that an instruction names as its destination, FX65's V0 to VX among them (10_state.md R43). -/
def NamesDestination (r : Reg) : Instr → Prop
  | .ldImm x _ | .addImm x _ | .rnd x _ => r = x
  | .ldReg x _ | .orReg x _ | .andReg x _ | .xorReg x _ | .addReg x _ | .sub x _ | .shr x _ | .subn x _
  | .shl x _ => r = x
  | .ldVxDt x | .ldVxK x => r = x
  | .ldVxMem x => r ≤ x
  | .cls | .ret | .jp _ | .call _ | .seImm _ _ | .sneImm _ _ | .seReg _ _ | .sneReg _ _ | .ldI _ | .jpV0 _
  | .drw _ _ _ | .skp _ | .sknp _ | .ldDtVx _ | .ldStVx _ | .addIVx _ | .ldFVx _ | .ldBVx _ | .ldMemVx _ => False

/-- The instructions that write VF as a side effect: the list of 10_state.md R43. -/
def WritesFlag (b : Build) : Instr → Prop
  | .addReg _ _ | .sub _ _ | .shr _ _ | .subn _ _ | .shl _ _ | .drw _ _ _ => True
  | .orReg _ _ | .andReg _ _ | .xorReg _ _ => b.logicResetsVf = true
  | .cls | .ret | .jp _ | .call _ | .seImm _ _ | .sneImm _ _ | .seReg _ _ | .sneReg _ _ | .ldImm _ _
  | .addImm _ _ | .ldReg _ _ | .ldI _ | .jpV0 _ | .rnd _ _ | .skp _ | .sknp _ | .ldVxDt _ | .ldVxK _
  | .ldDtVx _ | .ldStVx _ | .addIVx _ | .ldFVx _ | .ldBVx _ | .ldMemVx _ | .ldVxMem _ => False

/-- `n` timer ticks one after another. -/
def timerTicks : Nat → List Transaction
  | 0 => []
  | n + 1 => .timerTick :: timerTicks n

/-- A state after its step, with a change of view applied to it. -/
def mapNext (f : State → State) : StepResult → StepResult
  | .next s => .next (f s)
  | .fault r => .fault r
  | .refused r => .refused r

end Sys2Proof.Claims

open Sys2Proof Sys2Proof.Machine Sys2Proof.Claims

/-! ## Encoding and decoding -/

/-- Every instruction's word decodes to that instruction (30_encoding.md R106, R107): no bit of an operand is
dropped. -/
def Obligations.DecodeInvertsEncode : Prop := ∀ i : Instr, decode (encode i) = .instruction i

/-- A word that decodes to an instruction is that instruction's word: no bit of a recognised word is ignored, so the
word that a fault record keeps is the fetched word (10_state.md R53). -/
def Obligations.EncodeInvertsDecode : Prop := ∀ (w : Word) (i : Instr), decode w = .instruction i → encode i = w

/-- R107: "A word w selects row r exactly when `(w & mask_r) = match_r`"; "A word that matches no row is
`Unrecognised(w)`". -/
def Obligations.OpcodeMapSelectsInstruction : Prop :=
  opcodeRows.length = 34 ∧
  (∀ w i, decode w = .instruction i → i.row ∈ opcodeRows ∧ selectsRow w i.row) ∧
  (∀ w r, r ∈ opcodeRows → selectsRow w r → ∃ i, decode w = .instruction i ∧ i.row = r) ∧
  (∀ w, (∀ r ∈ opcodeRows, ¬ selectsRow w r) → decode w = .unrecognised w)

/-- R107 (the spec's own derivation from the table): "no word matches two rows". -/
def Obligations.OpcodeRowsDisjoint : Prop :=
  ∀ w r r', r ∈ opcodeRows → r' ∈ opcodeRows → selectsRow w r → selectsRow w r' → r = r'

/-- R112: "The unrecognised words are exactly those of rules R108 to R111", DXY0 is DXYN with N = 0, and family 0 has
the words of CLS and RET. -/
def Obligations.UnrecognisedWordsAreThese : Prop :=
  (∀ w w', decode w = .unrecognised w' → w' = w) ∧
  (∀ w : Word, decode w = .unrecognised w ↔
    (w.toNat / 4096 = 0x0 ∧ w.toNat ≠ 0x00E0 ∧ w.toNat ≠ 0x00EE) ∨
    ((w.toNat / 4096 = 0x5 ∨ w.toNat / 4096 = 0x9) ∧ w.toNat % 16 ≠ 0) ∨
    (w.toNat / 4096 = 0x8 ∧ w.toNat % 16 ∈ [0x8, 0x9, 0xA, 0xB, 0xC, 0xD, 0xF]) ∨
    (w.toNat / 4096 = 0xE ∧ w.toNat % 256 ∉ [0x9E, 0xA1]) ∨
    (w.toNat / 4096 = 0xF ∧ w.toNat % 256 ∉ [0x07, 0x0A, 0x15, 0x18, 0x1E, 0x29, 0x33, 0x55, 0x65])) ∧
  (∀ x y : Reg, decode (wordXY 0xD x.val y.val 0) = .instruction (.drw x y 0)) ∧
  decode 0x00E0#16 = .instruction .cls ∧ decode 0x00EE#16 = .instruction .ret

/-- R101: the fields of a word are the bits 15 to 12, 11 to 8, 7 to 4, 3 to 0, 7 to 0 and 11 to 0. -/
def Obligations.FieldsAreTheWordsNibbles : Prop :=
  ∀ w : Word,
    (fieldOp w).toNat = w.toNat / 4096 ∧ (fieldX w).val = w.toNat / 256 % 16 ∧
    (fieldY w).val = w.toNat / 16 % 16 ∧ (fieldN w).val = w.toNat % 16 ∧ (fieldFn w).toNat = w.toNat % 16 ∧
    (fieldNN w).toNat = w.toNat % 256 ∧ (fieldNNN w).toNat = w.toNat % 4096

/-- Words of the spec's examples decode to the instructions they stand for, one or two a family. -/
def Obligations.SampleWordsDecode : Prop :=
  decode 0x00E0#16 = .instruction .cls ∧ decode 0x00EE#16 = .instruction .ret ∧
  decode 0x2300#16 = .instruction (.call 0x300#12) ∧ decode 0xB220#16 = .instruction (.jpV0 0x220#12) ∧
  decode 0x3342#16 = .instruction (.seImm 3 0x42#8) ∧ decode 0x9120#16 = .instruction (.sneReg 1 2) ∧
  decode 0x6971#16 = .instruction (.ldImm 9 0x71#8) ∧ decode 0x8126#16 = .instruction (.shr 1 2) ∧
  decode 0xA2F0#16 = .instruction (.ldI 0x2F0#12) ∧ decode 0xF265#16 = .instruction (.ldVxMem 2) ∧
  decode 0xD125#16 = .instruction (.drw 1 2 5) ∧ decode 0xC30F#16 = .instruction (.rnd 3 0x0F#8) ∧
  decode 0xE59E#16 = .instruction (.skp 5) ∧ decode 0xF30A#16 = .instruction (.ldVxK 3) ∧
  decode 0x5121#16 = .unrecognised 0x5121#16

/-! ## The tick -/

/-- A tick in RUN whose bytes at pc and pc + 1 decode to a (well-formed) instruction is the execution of that
instruction at the same state (40_cycle.md R138). The advance of pc by 2 is part of each meaning (R133, log 7). -/
def Obligations.StepRunsDecodedInstruction : Prop :=
  ∀ s i, Fetches s i → i.wellFormed = true ∧ step s = exec i s

/-- R131: a tick with no ROM loaded raises MissingRom with pc_at = pc and word = none, whatever memory and pc hold. -/
def Obligations.MissingRomBeforeAnyFetch : Prop :=
  ∀ s, s.fault = none → s.romLoaded = false →
    step s = .next { s with fault := some { kind := .missingRom, pcAt := s.pc, word := none } }

/-- R132: a fetch at pc > 0xFFE raises FetchOutOfBounds with pc_at = pc and word = none. -/
def Obligations.FetchPastMemoryFaults : Prop :=
  ∀ s, s.fault = none → s.romLoaded = true → s.pc.toNat > 0xFFE →
    step s = .next { s with fault := some { kind := .fetchOutOfBounds, pcAt := s.pc, word := none } }

/-- R134: an unrecognised word raises UnknownOpcode with pc_at = the pc before the fetch and word = the word. -/
def Obligations.UnrecognisedWordFaults : Prop :=
  ∀ s w, s.fault = none → s.romLoaded = true → s.pc.toNat ≤ 0xFFE →
    w = BitVec.ofNat 16 (fetchedNumber s) → decode w = .unrecognised w →
    step s = .next { s with fault := some { kind := .unknownOpcode, pcAt := s.pc, word := some w } }

/-- R260: in HALTED a tick changes nothing, the other transactions keep their effects, and only RESET clears the
fault. -/
def Obligations.HaltedUntilReset : Prop :=
  ∀ s, s.fault ≠ none →
    step s = .next s ∧
    (∀ tr t reply, transact tr s = .next (t, reply) → tr ≠ .reset → t.fault = s.fault) ∧
    (∃ t reply, transact .reset s = .next (t, reply) ∧ t.fault = none) ∧
    (∃ t reply, transact .timerTick s = .next (t, reply) ∧
      t.dt.toNat = s.dt.toNat - 1 ∧ t.st.toNat = s.st.toNat - 1) ∧
    (∀ k down, ∃ t reply, transact (.keySet k down) s = .next (t, reply) ∧ t.keyDown k = down) ∧
    (∃ t reply, transact .ackFrame s = .next (t, reply) ∧ t.drawFlag = false)

/-- R136: a tick that records a fault leaves every other element as it was; the record's pc_at is the pc at which the
tick began. -/
def Obligations.FaultingTickChangesOnlyRecord : Prop :=
  ∀ s t r, s.fault = none → step s = .next t → t.fault = some r → t = { s with fault := some r } ∧ r.pcAt = s.pc

/-- R251 to R259: each kind of fault is raised by a tick exactly in its own cases and no other; the record has the pc
at which the tick began and the fetched word, or no word where the fault came before the fetch; and the kinds have the
codes 1 to 8. The stack has at most STACK_DEPTH entries (R44), which the invariant of Safety.lean keeps. -/
def Obligations.FaultKindsHaveTheirCauses : Prop :=
  (∀ s t, s.fault = none → s.stack.length ≤ s.build.stackDepth → step s = .next t →
    (∀ kind, (∃ r, t.fault = some r ∧ r.kind = kind) ↔ RaisedBy s kind) ∧
    (∀ r, t.fault = some r → r.pcAt = s.pc ∧
      r.word = if r.kind = .fetchOutOfBounds ∨ r.kind = .missingRom then none
        else some (BitVec.ofNat 16 (fetchedNumber s)))) ∧
  [FaultKind.fetchOutOfBounds, .unknownOpcode, .stackUnderflow, .stackOverflow, .dataOutOfBounds, .missingRom,
    .protectedWrite, .operandOutOfRange].map FaultKind.code = [1, 2, 3, 4, 5, 6, 7, 8]

/-- R139: no tick blocks or fails to return, and a tick that completes without a fault has executed exactly one
instruction. -/
def Obligations.EveryTickReturns : Prop :=
  ∀ s, ∃ t, step s = .next t ∧ (t.fault = none → ∃ i, Fetches s i ∧ exec i s = .next t)

/-- R133: two bytes of memory are fetched as a big-endian word, and whatever instruction they decode to runs with pc
advanced by 2, so an instruction that writes no pc of its own leaves pc + 2. Stated for every instruction that is no
jump, call, return, skip or key wait and that raises no fault. -/
def Obligations.PcAdvancesByTwo : Prop :=
  ∀ s i t, Fetches s i → step s = .next t → t.fault = none →
    (match i with
      | .ret | .jp _ | .call _ | .jpV0 _ | .ldVxK _ => True
      | .seImm _ _ | .sneImm _ _ | .seReg _ _ | .sneReg _ _ | .skp _ | .sknp _ =>
        t.pc.toNat = s.pc.toNat + 2 ∨ t.pc.toNat = s.pc.toNat + 4
      | .cls | .ldImm _ _ | .addImm _ _ | .ldReg _ _ | .orReg _ _ | .andReg _ _ | .xorReg _ _ | .addReg _ _
      | .sub _ _ | .shr _ _ | .subn _ _ | .shl _ _ | .ldI _ | .rnd _ _ | .drw _ _ _ | .ldVxDt _ | .ldDtVx _
      | .ldStVx _ | .addIVx _ | .ldFVx _ | .ldBVx _ | .ldMemVx _ | .ldVxMem _ => t.pc.toNat = s.pc.toNat + 2)

/-! ## Control transfer (41_control_flow.md) -/

/-- R151: `pc <- zext_16(NNN)`, with nothing else changed. -/
def Obligations.JpSetsPc : Prop :=
  ∀ (nnn : Addr12) (s : State),
    Encodes (wordNNN 0x1 nnn.toNat) (.jp nnn) ∧
    Runs (.jp nnn) s (among [.pc]) (fun t => t.pc.toNat = nnn.toNat)

/-- R153: `pc <- zext_16(NNN) + zext_16(r)`, exact, with r = V0, or VX for X = NNN[11:8] under JUMP_OFFSET_USES_VX. -/
def Obligations.JpV0AddsOffset : Prop :=
  ∀ (nnn : Addr12) (x : Reg) (s : State), x.val = nnn.toNat / 256 →
    Encodes (wordNNN 0xB nnn.toNat) (.jpV0 nnn) ∧
    Runs (.jpV0 nnn) s (among [.pc])
      (fun t => t.pc.toNat =
        nnn.toNat + (if s.build.jumpOffsetUsesVx then s.reg x else s.reg 0).toNat)

/-- R152: CALL pushes `pc_i + 2` and jumps; at STACK_DEPTH entries it raises StackOverflow. -/
def Obligations.CallPushesReturnAddress : Prop :=
  ∀ (nnn : Addr12) (s : State),
    Encodes (wordNNN 0x2 nnn.toNat) (.call nnn) ∧
    (s.stack.length < s.build.stackDepth →
      Runs (.call nnn) s (among [.pc, .stack])
        (fun t => t.pc.toNat = nnn.toNat ∧ t.stack = (s.pc + 2) :: s.stack)) ∧
    (s.stack.length = s.build.stackDepth → Faults (.call nnn) s .stackOverflow)

/-- R150: RET pops the return address into pc; on an empty stack it raises StackUnderflow. -/
def Obligations.RetPopsReturnAddress : Prop :=
  ∀ s : State,
    Encodes 0x00EE#16 .ret ∧
    (∀ a rest, s.stack = a :: rest →
      Runs .ret s (among [.pc, .stack]) (fun t => t.pc = a ∧ t.stack = rest)) ∧
    (s.stack = [] → Faults .ret s .stackUnderflow)

/-- S5 (95_test_vectors.md): a CALL, then any instructions that leave the stack as the CALL left it, then a RET:
execution goes on at the instruction after the CALL, with the caller's stack. -/
def Obligations.ReturnGoesBehindCall : Prop :=
  ∀ (nnn : Addr12) (s t t' : State), s.stack.length < s.build.stackDepth → exec (.call nnn) s = .next t →
    t'.stack = t.stack →
    Runs .ret t' (among [.pc, .stack]) (fun u => u.pc = s.pc + 2 ∧ u.stack = s.stack)

/-! ## Skips (42_skips.md) -/

/-- R161 to R164 with R160: pc becomes `pc_i + 4` when the condition holds, else `pc_i + 2`; nothing else changes. -/
def Obligations.ComparingSkips : Prop :=
  ∀ (x y : Reg) (nn : Byte) (s : State),
    (Encodes (wordXNN 0x3 x.val nn.toNat) (.seImm x nn) ∧
      Runs (.seImm x nn) s (among [.pc]) (fun t => t.pc = s.pc + (if s.reg x = nn then 4 else 2))) ∧
    (Encodes (wordXNN 0x4 x.val nn.toNat) (.sneImm x nn) ∧
      Runs (.sneImm x nn) s (among [.pc]) (fun t => t.pc = s.pc + (if s.reg x = nn then 2 else 4))) ∧
    (Encodes (wordXY 0x5 x.val y.val 0) (.seReg x y) ∧
      Runs (.seReg x y) s (among [.pc]) (fun t => t.pc = s.pc + (if s.reg x = s.reg y then 4 else 2))) ∧
    (Encodes (wordXY 0x9 x.val y.val 0) (.sneReg x y) ∧
      Runs (.sneReg x y) s (among [.pc]) (fun t => t.pc = s.pc + (if s.reg x = s.reg y then 2 else 4)))

/-- R165, R166 and R167: the key named by VX decides the skip; V[X] > 0x0F raises OperandOutOfRange and is not
masked. -/
def Obligations.KeySkips : Prop :=
  ∀ (x : Reg) (s : State),
    Encodes (wordXNN 0xE x.val 0x9E) (.skp x) ∧ Encodes (wordXNN 0xE x.val 0xA1) (.sknp x) ∧
    (∀ k : Fin 16, (s.reg x).toNat = k.val →
      Runs (.skp x) s (among [.pc]) (fun t => t.pc = s.pc + (if s.keys[k.val] = true then 4 else 2)) ∧
      Runs (.sknp x) s (among [.pc]) (fun t => t.pc = s.pc + (if s.keys[k.val] = true then 2 else 4))) ∧
    ((s.reg x).toNat > 0x0F →
      Faults (.skp x) s .operandOutOfRange ∧ Faults (.sknp x) s .operandOutOfRange)

/-! ## Register loads and 8-bit arithmetic and logic (43_registers_alu.md) -/

/-- R171 and R173: VX takes the immediate, or the value of VY; no other register changes, VF included. -/
def Obligations.RegisterLoads : Prop :=
  ∀ (x y : Reg) (nn : Byte) (s : State),
    (Encodes (wordXNN 0x6 x.val nn.toNat) (.ldImm x nn) ∧
      Runs (.ldImm x nn) s (among [.reg x, .pc]) (fun t => t.reg x = nn ∧ t.pc = s.pc + 2)) ∧
    (Encodes (wordXY 0x8 x.val y.val 0x0) (.ldReg x y) ∧
      Runs (.ldReg x y) s (among [.reg x, .pc]) (fun t => t.reg x = s.reg y ∧ t.pc = s.pc + 2))

/-- R172: VX becomes (vx + NN) mod 256, and no carry is recorded. -/
def Obligations.AddImmWrapsWithoutFlag : Prop :=
  ∀ (x : Reg) (nn : Byte) (s : State),
    Encodes (wordXNN 0x7 x.val nn.toNat) (.addImm x nn) ∧
    Runs (.addImm x nn) s (among [.reg x, .pc])
      (fun t => (t.reg x).toNat = ((s.reg x).toNat + nn.toNat) % 256 ∧ t.pc = s.pc + 2)

/-- R174, R175 and R176: the bitwise operation on the values at the start; VF <- 0 after it under
LOGIC_RESETS_VF only. -/
def Obligations.LogicIsBitwise : Prop :=
  ∀ (x y : Reg) (s : State),
    (Encodes (wordXY 0x8 x.val y.val 0x1) (.orReg x y) ∧ Encodes (wordXY 0x8 x.val y.val 0x2) (.andReg x y) ∧
      Encodes (wordXY 0x8 x.val y.val 0x3) (.xorReg x y)) ∧
    (∀ i f, (i, f) ∈ [(Instr.orReg x y, or), (Instr.andReg x y, and), (Instr.xorReg x y, xor)] →
      Runs i s (among (if s.build.logicResetsVf then [.reg x, .reg 15, .pc] else [.reg x, .pc]))
        (fun t => t.pc = s.pc + 2 ∧ (s.build.logicResetsVf = true → t.reg 15 = 0) ∧
          ((s.build.logicResetsVf = true ∧ x = 15) ∨
            ∀ k, k < 8 → (t.reg x).getLsbD k = f ((s.reg x).getLsbD k) ((s.reg y).getLsbD k))))

/-- R177 with R170: the exact sum of the operands read at the start, reduced modulo 256; then VF = 1 when it exceeds
255, else 0, also when X = F. -/
def Obligations.AddRegSumAndCarry : Prop :=
  ∀ (x y : Reg) (s : State),
    Encodes (wordXY 0x8 x.val y.val 0x4) (.addReg x y) ∧
    Runs (.addReg x y) s (among [.reg x, .reg 15, .pc])
      (fun t => t.pc = s.pc + 2 ∧
        (x ≠ 15 → (t.reg x).toNat = ((s.reg x).toNat + (s.reg y).toNat) % 256) ∧
        (t.reg 15).toNat = if (s.reg x).toNat + (s.reg y).toNat > 255 then 1 else 0)

/-- R178 and R180: the difference modulo 256 of the operands read at the start, minuend VX for SUB and VY for SUBN;
then VF = 1 when minuend ≥ subtrahend (no borrow), else 0, also when X = F. -/
def Obligations.SubtractAndNotBorrow : Prop :=
  ∀ (x y : Reg) (s : State),
    (Encodes (wordXY 0x8 x.val y.val 0x5) (.sub x y) ∧
      Runs (.sub x y) s (among [.reg x, .reg 15, .pc])
        (fun t => t.pc = s.pc + 2 ∧
          (x ≠ 15 → ((t.reg x).toNat : Int) = ((s.reg x).toNat - (s.reg y).toNat : Int) % 256) ∧
          (t.reg 15).toNat = if (s.reg x).toNat ≥ (s.reg y).toNat then 1 else 0)) ∧
    (Encodes (wordXY 0x8 x.val y.val 0x7) (.subn x y) ∧
      Runs (.subn x y) s (among [.reg x, .reg 15, .pc])
        (fun t => t.pc = s.pc + 2 ∧
          (x ≠ 15 → ((t.reg x).toNat : Int) = ((s.reg y).toNat - (s.reg x).toNat : Int) % 256) ∧
          (t.reg 15).toNat = if (s.reg y).toNat ≥ (s.reg x).toNat then 1 else 0))

/-- R179 and R181: the source (VX, or VY under SHIFT_USES_VY) shifted by one; then VF = the bit shifted out, also when
X = F. -/
def Obligations.ShiftsAndBitOut : Prop :=
  ∀ (x y : Reg) (s : State) (src : Byte), src = (if s.build.shiftUsesVy then s.reg y else s.reg x) →
    (Encodes (wordXY 0x8 x.val y.val 0x6) (.shr x y) ∧
      Runs (.shr x y) s (among [.reg x, .reg 15, .pc])
        (fun t => t.pc = s.pc + 2 ∧ (x ≠ 15 → (t.reg x).toNat = src.toNat / 2) ∧
          (t.reg 15).toNat = src.toNat % 2)) ∧
    (Encodes (wordXY 0x8 x.val y.val 0xE) (.shl x y) ∧
      Runs (.shl x y) s (among [.reg x, .reg 15, .pc])
        (fun t => t.pc = s.pc + 2 ∧ (x ≠ 15 → (t.reg x).toNat = src.toNat * 2 % 256) ∧
          (t.reg 15).toNat = src.toNat / 128))

/-! ## Index register and memory blocks (44_index_memory.md) -/

/-- R190 and R191: I takes NNN, or I + VX modulo 65536; VF is unchanged by both. -/
def Obligations.IndexLoadAndAdd : Prop :=
  ∀ (nnn : Addr12) (x : Reg) (s : State),
    (Encodes (wordNNN 0xA nnn.toNat) (.ldI nnn) ∧
      Runs (.ldI nnn) s (among [.index, .pc]) (fun t => t.index.toNat = nnn.toNat ∧ t.pc = s.pc + 2)) ∧
    (Encodes (wordXNN 0xF x.val 0x1E) (.addIVx x) ∧
      Runs (.addIVx x) s (among [.index, .pc])
        (fun t => t.index.toNat = (s.index.toNat + (s.reg x).toNat) % 65536 ∧ t.pc = s.pc + 2))

/-- R192: I takes 5*d for the digit d in VX; V[X] > 0x0F raises OperandOutOfRange. -/
def Obligations.FontAddressOfDigit : Prop :=
  ∀ (x : Reg) (s : State),
    Encodes (wordXNN 0xF x.val 0x29) (.ldFVx x) ∧
    ((s.reg x).toNat ≤ 0xF →
      Runs (.ldFVx x) s (among [.index, .pc])
        (fun t => t.index.toNat = 5 * (s.reg x).toNat ∧ t.pc = s.pc + 2)) ∧
    ((s.reg x).toNat > 0xF → Faults (.ldFVx x) s .operandOutOfRange)

/-- 10_state.md R47 with R192, for any FONT_TABLE: in a state that meets the invariant, FX29 on a digit d leaves I at the
five rows of glyph d, the bytes 5*d to 5*d + 4 of the block's FONT_TABLE. -/
def Obligations.GlyphRowsStandAtI : Prop :=
  ∀ (x : Reg) (d : Fin 16) (s : State), s.Inv → (s.reg x).toNat = d.val →
    Runs (.ldFVx x) s (among [.index, .pc])
      (fun t => ∀ r : Fin 5, t.readByte (t.index.toNat + r.val) =
        s.build.fontTable[5 * d.val + r.val]'(by have := d.isLt; have := r.isLt; omega))

/-- R193: the hundreds, tens and units of VX go to I, I + 1 and I + 2 and nowhere else; DataOutOfBounds when
I + 2 ≥ 4096; ProtectedWrite when an address is protected. Memory is in canonical form. -/
def Obligations.BcdStoresDigits : Prop :=
  ∀ (x : Reg) (s : State), s.memWf = true →
    Encodes (wordXNN 0xF x.val 0x33) (.ldBVx x) ∧
    (s.index.toNat + 2 < 4096 → ¬ HitsProtected s 3 →
      Runs (.ldBVx x) s (storing s 3 [.pc])
        (fun t => (t.readByte s.index.toNat).toNat = (s.reg x).toNat / 100 ∧
          (t.readByte (s.index.toNat + 1)).toNat = (s.reg x).toNat / 10 % 10 ∧
          (t.readByte (s.index.toNat + 2)).toNat = (s.reg x).toNat % 10 ∧ t.pc = s.pc + 2)) ∧
    (s.index.toNat + 2 ≥ 4096 → Faults (.ldBVx x) s .dataOutOfBounds) ∧
    (s.index.toNat + 2 < 4096 → HitsProtected s 3 → Faults (.ldBVx x) s .protectedWrite)

/-- R194: V0 to VX go to I to I + X and nowhere else; I is unchanged, or I + X + 1 under LOADSTORE_INCREMENTS_I;
DataOutOfBounds when I + X ≥ 4096; ProtectedWrite when an address is protected. Memory is in canonical form. -/
def Obligations.StoreRegistersToMemory : Prop :=
  ∀ (x : Reg) (s : State), s.memWf = true →
    Encodes (wordXNN 0xF x.val 0x55) (.ldMemVx x) ∧
    (s.index.toNat + x.val < 4096 → ¬ HitsProtected s (x.val + 1) →
      Runs (.ldMemVx x) s
        (storing s (x.val + 1) (if s.build.loadstoreIncrementsI then [.index, .pc] else [.pc]))
        (fun t => (∀ k : Reg, k ≤ x → t.readByte (s.index.toNat + k.val) = s.reg k) ∧
          (s.build.loadstoreIncrementsI = true →
            t.index.toNat = (s.index.toNat + x.val + 1) % 65536) ∧
          t.pc = s.pc + 2)) ∧
    (s.index.toNat + x.val ≥ 4096 → Faults (.ldMemVx x) s .dataOutOfBounds) ∧
    (s.index.toNat + x.val < 4096 → HitsProtected s (x.val + 1) → Faults (.ldMemVx x) s .protectedWrite)

/-- R195: V0 to VX take the bytes at I to I + X, the registers above X are unchanged; I is unchanged, or I + X + 1
under LOADSTORE_INCREMENTS_I; DataOutOfBounds when I + X ≥ 4096; reads below 0x200 are permitted. -/
def Obligations.LoadRegistersFromMemory : Prop :=
  ∀ (x : Reg) (s : State),
    Encodes (wordXNN 0xF x.val 0x65) (.ldVxMem x) ∧
    (s.index.toNat + x.val < 4096 →
      Runs (.ldVxMem x) s
        (fun e => e = .pc ∨ (∃ k : Reg, k ≤ x ∧ e = .reg k) ∨
          (s.build.loadstoreIncrementsI = true ∧ e = .index))
        (fun t => (∀ k : Reg, k ≤ x → t.reg k = s.readByte (s.index.toNat + k.val)) ∧
          (s.build.loadstoreIncrementsI = true →
            t.index.toNat = (s.index.toNat + x.val + 1) % 65536) ∧
          t.pc = s.pc + 2)) ∧
    (s.index.toNat + x.val ≥ 4096 → Faults (.ldVxMem x) s .dataOutOfBounds)

/-! ## Display (45_display.md) -/

/-- R210: every pixel goes off and draw_flag is set; VF is unchanged. -/
def Obligations.ClsClearsScreen : Prop :=
  ∀ s : State,
    Encodes 0x00E0#16 .cls ∧
    Runs .cls s (among [.fb, .drawFlag, .pc])
      (fun t => (∀ px py, px < 64 → py < 32 → t.fb.pixel px py = false) ∧ t.drawFlag = true ∧ t.pc = s.pc + 2)

/-- R211, R212 and R213: DXYN flips exactly the pixels of the screen that a sprite bit of 1 falls on, clipped at the
edges, or wrapped under DRAW_WRAP; VF is 1 if one of them was on, else 0, and draw_flag is set, also for N = 0; I is
unchanged; a row address of 4096 or more raises DataOutOfBounds, also for a row that is clipped (decision D22). -/
def Obligations.DrwFlipsSpriteAndReportsCollision : Prop :=
  ∀ (x y : Reg) (n : Fin 16) (s : State),
    Encodes (wordXY 0xD x.val y.val n.val) (.drw x y n) ∧
    (s.index.toNat + n.val ≤ 4096 ∨ n = 0 →
      Runs (.drw x y n) s (among [.fb, .drawFlag, .reg 15, .pc])
        (fun t =>
          (∀ px py, px < 64 → py < 32 →
            (t.fb.pixel px py ≠ s.fb.pixel px py ↔ SpriteCovers s x y n px py)) ∧
          (SpriteCollides s x y n → t.reg 15 = 1) ∧ (¬ SpriteCollides s x y n → t.reg 15 = 0) ∧
          t.drawFlag = true ∧ t.pc = s.pc + 2)) ∧
    (n ≠ 0 → s.index.toNat + n.val > 4096 → Faults (.drw x y n) s .dataOutOfBounds)

/-- R215 (the spec's own derivation): drawing the same sprite at the same place twice, with no other write to the
framebuffer between the draws, gives the framebuffer back, and the second draw reports VF = 1 exactly when the first
left one of its on-screen sprite pixels on. -/
def Obligations.DrawTwiceRestoresScreen : Prop :=
  ∀ (x y : Reg) (n : Fin 16) (s t s' : State),
    s.index.toNat + n.val ≤ 4096 ∨ n = 0 → exec (.drw x y n) s = .next t →
    s'.fb = t.fb → s'.index = s.index → s'.build = s.build →
    (∀ k, k < n.val → s'.readByte (s.index.toNat + k) = s.readByte (s.index.toNat + k)) →
    (s'.reg x).toNat % 64 = (s.reg x).toNat % 64 → (s'.reg y).toNat % 32 = (s.reg y).toNat % 32 →
    Runs (.drw x y n) s' (among [.fb, .drawFlag, .reg 15, .pc])
      (fun u => u.fb = s.fb ∧
        (u.reg 15 = 1 ↔ ∃ px py, px < 64 ∧ py < 32 ∧ SpriteCovers s x y n px py ∧ t.fb.pixel px py = true))

/-! ## Random, timers, keys (46_timers_keys_random.md) -/

/-- R230: `V[X] <- r & NN` for the oracle's next byte r, whatever that byte is (log 1); the next execution draws the
byte after it; NN = 0 gives 0. -/
def Obligations.RndMasksOracleByte : Prop :=
  ∀ (x : Reg) (nn : Byte) (s : State),
    Encodes (wordXNN 0xC x.val nn.toNat) (.rnd x nn) ∧
    Runs (.rnd x nn) s (among [.reg x, .draws, .pc])
      (fun t => (∀ k, k < 8 →
          (t.reg x).getLsbD k = ((Config.randomByte s.draws).getLsbD k && nn.getLsbD k)) ∧
        (nn = 0 → t.reg x = 0) ∧ (nn = 0xFF → t.reg x = Config.randomByte s.draws) ∧
        t.draws = s.draws + 1 ∧ t.pc = s.pc + 2)

/-- R231, R233 and R234: FX07 reads DT, FX15 writes DT, FX18 writes ST, which turns TONE on or off. -/
def Obligations.TimerRegisterMoves : Prop :=
  ∀ (x : Reg) (s : State),
    (Encodes (wordXNN 0xF x.val 0x07) (.ldVxDt x) ∧
      Runs (.ldVxDt x) s (among [.reg x, .pc]) (fun t => t.reg x = s.dt ∧ t.pc = s.pc + 2)) ∧
    (Encodes (wordXNN 0xF x.val 0x15) (.ldDtVx x) ∧
      Runs (.ldDtVx x) s (among [.dt, .pc]) (fun t => t.dt = s.reg x ∧ t.pc = s.pc + 2)) ∧
    (Encodes (wordXNN 0xF x.val 0x18) (.ldStVx x) ∧
      Runs (.ldStVx x) s (among [.st, .pc])
        (fun t => t.st = s.reg x ∧ (t.tone = true ↔ s.reg x ≠ 0) ∧ t.pc = s.pc + 2))

/-- R232: with keys down, VX takes the lowest-numbered one; with none down, the tick completes and pc stays at the
instruction. -/
def Obligations.KeyWaitTakesLowestKey : Prop :=
  ∀ (x : Reg) (s : State),
    Encodes (wordXNN 0xF x.val 0x0A) (.ldVxK x) ∧
    (∀ k : Fin 16, s.keys[k.val] = true → (∀ j : Fin 16, j < k → s.keys[j.val] = false) →
      Runs (.ldVxK x) s (among [.reg x, .pc]) (fun t => (t.reg x).toNat = k.val ∧ t.pc = s.pc + 2)) ∧
    ((∀ k : Fin 16, s.keys[k.val] = false) → Runs (.ldVxK x) s (among []) (fun t => t.pc = s.pc))

/-! ## Rules about the whole machine -/

/-- 10_state.md R49 and R50: only CLS and DRW write the framebuffer and the redraw flag, and each of their executions
that raises no fault sets the flag. -/
def Obligations.OnlyClsAndDrwTouchScreen : Prop :=
  ∀ s t, step s = .next t →
    (t.fb ≠ s.fb ∨ t.drawFlag ≠ s.drawFlag →
      Fetches s .cls ∨ ∃ x y n, Fetches s (.drw x y n)) ∧
    ((Fetches s .cls ∨ ∃ x y n, Fetches s (.drw x y n)) → t.fault = none → t.drawFlag = true)

/-- 20_memory.md R89: of the instructions, only FX33 (3 bytes from I) and FX55 (X + 1 bytes from I) write memory. -/
def Obligations.OnlyTwoInstructionsStore : Prop :=
  ∀ s t a, step s = .next t → t.readByte a ≠ s.readByte a →
    (∃ x, Fetches s (.ldBVx x) ∧ ∃ k, k < 3 ∧ a = s.effAddr k) ∨
    (∃ x, Fetches s (.ldMemVx x) ∧ ∃ k, k < x.val + 1 ∧ a = s.effAddr k)

/-- 10_state.md R43: "Every other instruction writes VF only when VF is its named destination register"; and a general
register other than VF changes only when it is the named destination. -/
def Obligations.RegistersChangeOnlyAsNamed : Prop :=
  ∀ s t r, step s = .next t → t.reg r ≠ s.reg r →
    ∃ i, Fetches s i ∧ (NamesDestination r i ∨ (r = 15 ∧ WritesFlag s.build i))

/-- Who writes the stack (10_state.md R44), I (R46) and the timers (R48, 40_cycle.md R137) within a tick; no tick changes
the key state (R51) or rom_loaded (R52). The last clause is about the model's own field `build` (log 2, DESIGN CHOICE):
the parameters are fixed when the block is built (R56). -/
def Obligations.SpecialRegistersHaveTheirWriters : Prop :=
  ∀ s t, step s = .next t →
    (t.stack ≠ s.stack → Fetches s .ret ∨ ∃ nnn, Fetches s (.call nnn)) ∧
    (t.index ≠ s.index →
      (∃ nnn, Fetches s (.ldI nnn)) ∨ (∃ x, Fetches s (.addIVx x) ∨ Fetches s (.ldFVx x)) ∨
      (s.build.loadstoreIncrementsI = true ∧ ∃ x, Fetches s (.ldMemVx x) ∨ Fetches s (.ldVxMem x))) ∧
    (t.dt ≠ s.dt → ∃ x, Fetches s (.ldDtVx x)) ∧ (t.st ≠ s.st → ∃ x, Fetches s (.ldStVx x)) ∧
    t.keys = s.keys ∧ t.romLoaded = s.romLoaded ∧ t.build = s.build

/-- 60_exceptions.md R270 and 10_state.md R48: no instruction reads ST, and DT is read by FX07 only: a timer tick before
a tick that runs neither FX07, FX15 nor FX18 does the same as one after it. -/
def Obligations.TimerTickCommutesWithTick : Prop :=
  ∀ s, (∀ x, ¬ Fetches s (.ldVxDt x) ∧ ¬ Fetches s (.ldDtVx x) ∧ ¬ Fetches s (.ldStVx x)) →
    step s.timerTick = mapNext State.timerTick (step s)

/-- 10_state.md R51: the key state is read by EX9E, EXA1 and FX0A only: for any other instruction two runs that differ
in the keys differ in the keys alone. -/
def Obligations.KeysReachOnlyKeyInstructions : Prop :=
  ∀ s (keys : Vector Bool 16),
    (∀ x, ¬ Fetches s (.skp x) ∧ ¬ Fetches s (.sknp x) ∧ ¬ Fetches s (.ldVxK x)) →
    step { s with keys := keys } = mapNext (fun t => { t with keys := keys }) (step s)

/-- 20_memory.md R93: a byte stored by FX55 is seen by the next fetch of that address. -/
def Obligations.StoredBytesAreFetched : Prop :=
  ∀ (x k k' : Reg) (s t : State), s.memWf = true → exec (.ldMemVx x) s = .next t →
    s.index.toNat + x.val < 4096 → ¬ HitsProtected s (x.val + 1) →
    k'.val = k.val + 1 → k' ≤ x → t.pc.toNat = s.index.toNat + k.val →
    fetchedNumber t = (s.reg k).toNat * 256 + (s.reg k').toNat

/-! ## Memory -/

/-- 20_memory.md R84: "a read returns the last value written to that byte"; a write leaves every other byte; and two
canonical memories of one block that read the same everywhere are equal (the form is the model's, log 4). -/
def Obligations.MemoryReadsLastWrite : Prop :=
  ∀ font : FontTable,
    (∀ (m : Memory) (a : Nat) (b : Byte), m.wf font = true → a < 4096 →
      (m.write font a b).wf font = true ∧ (m.write font a b).read font a = b ∧
      ∀ c, c ≠ a → (m.write font a b).read font c = m.read font c) ∧
    (∀ m m' : Memory, m.wf font = true → m'.wf font = true →
      (∀ a, a < 4096 → m.read font a = m'.read font a) → m = m')

/-! ## The host's transactions (60_exceptions.md R270 to R276, 70_reset_and_hazards.md) -/

/-- R292: a ROM of at most 0xE00 bytes is placed at 0x200, in order, and rom_loaded is set; a longer one is answered
with RomTooLarge; no other state changes. Memory is in canonical form. -/
def Obligations.LoadRomPlacesBytes : Prop :=
  ∀ (rom : List Byte) (s : State), s.memWf = true →
    (rom.length ≤ 0xE00 →
      ∃ t, transact (.loadRom rom) s = .next (t, .load .ok) ∧ t.romLoaded = true ∧
        (∀ k (h : k < rom.length), t.readByte (0x200 + k) = rom[k]) ∧
        OnlyChanges (fun e => e = .romLoaded ∨ ∃ k, k < rom.length ∧ e = .byte (0x200 + k)) s t) ∧
    (rom.length > 0xE00 → transact (.loadRom rom) s = .next (s, .load .romTooLarge))

/-- R270: n timer ticks take n from DT and from ST, never below zero, and change nothing else. -/
def Obligations.TimerTicksCountDown : Prop :=
  ∀ (n : Nat) (s : State),
    ∃ t, runSchedule (timerTicks n) s = .next t ∧ t.dt.toNat = s.dt.toNat - n ∧ t.st.toNat = s.st.toNat - n ∧
      OnlyChanges (among [.dt, .st]) s t

/-- R271 to R275: KEY_SET records one key; FB_READ gives the 2048 pixels in row-major order; DRAW_FLAG, TONE and
FAULT_STATUS answer from the state; ACK_FRAME clears the redraw flag; the reads change nothing. -/
def Obligations.HostOperationsDoTheirWork : Prop :=
  ∀ s : State,
    (∀ k down, ∃ t, transact (.keySet k down) s = .next (t, .done) ∧ OnlyChanges (among [.keys]) s t ∧
      t.keys[k.val] = down ∧ ∀ j : Fin 16, j ≠ k → t.keys[j.val] = s.keys[j.val]) ∧
    (∃ bits, transact .fbRead s = .next (s, .pixels bits) ∧ bits.length = 2048 ∧
      ∀ px py, px < 64 → py < 32 → bits[py * 64 + px]? = some (s.fb.pixel px py)) ∧
    transact .drawFlag s = .next (s, .bool s.drawFlag) ∧
    (∃ t, transact .ackFrame s = .next (t, .done) ∧ OnlyChanges (among [.drawFlag]) s t ∧ t.drawFlag = false) ∧
    (∃ b, transact .tone s = .next (s, .bool b) ∧ (b = true ↔ s.st ≠ 0)) ∧
    transact .faultStatus s = .next (s, .fault s.fault)

/-- The values of 10_state.md R58, element by element; FONT_TABLE is the block's own (R13, R47). -/
def Sys2Proof.Claims.HoldsResetValues (s : State) : Prop :=
  (∀ a (h : a < 80), s.readByte a = s.build.fontTable[a]'h) ∧ (∀ a, 80 ≤ a → a < 4096 → s.readByte a = 0) ∧
  (∀ r, s.reg r = 0) ∧ s.pc = 0x0200 ∧ s.index = 0 ∧ s.stack = [] ∧ s.dt = 0 ∧ s.st = 0 ∧
  (∀ px py, px < 64 → py < 32 → s.fb.pixel px py = false) ∧ s.drawFlag = false ∧
  (∀ k : Fin 16, s.keys[k.val] = false) ∧ s.romLoaded = false ∧ s.fault = none

/-- R58: after RESET every element holds the value of the table. -/
def Obligations.ResetStateHoldsResetValues : Prop := HoldsResetValues State.reset

/-- R290: RESET in any condition, HALTED included, sets every element to its reset value. -/
def Obligations.ResetFromAnyState : Prop :=
  ∀ s : State, ∃ t, transact .reset s = .next (t, .done) ∧ HoldsResetValues t

/-- The model's two own fields. The build parameters are those of the block that was built (10_state.md R56): no
transaction changes them (log 2). The oracle goes on and never repeats (log 1, the model's choice): RESET does not put
it back, and only a tick that runs CXNN draws. -/
def Obligations.ParametersStayAndOracleGoesOn : Prop :=
  ∀ tr s t reply, transact tr s = .next (t, reply) →
    t.build = s.build ∧ (t.draws = s.draws ∨ (tr = .tick ∧ t.draws = s.draws + 1 ∧ ∃ x nn, Fetches s (.rnd x nn)))

/-- R293: RESET, LOAD_ROM, TICK: the first tick after a load runs the ROM's first word at 0x200, from a state with every
register zero. -/
def Obligations.BootRunsFirstRomWord : Prop :=
  ∀ (hi lo : Byte) (rest : List Byte) (s : State) (i : Instr), rest.length ≤ 0xDFE →
    decode (BitVec.ofNat 16 (hi.toNat * 256 + lo.toNat)) = .instruction i →
    ∃ t, runSchedule [.reset, .loadRom (hi :: lo :: rest)] s = .next t ∧ Fetches t i ∧ t.pc = 0x200 ∧
      (∀ r, t.reg r = 0) ∧ t.stack = [] ∧ step t = exec i t

/-! ## Invariants -/

/-- The invariant of Safety.lean holds right after reset. -/
def Obligations.ResetMeetsInvariant : Prop := State.reset.Inv

/-- Every step keeps the invariant: canonical memory, the font intact (R88), sp within STACK_DEPTH (R44), pc at most
0x10FE (R45), stack entries at most 0x1000 (R150), and a fault record that is precise (R261). -/
def Obligations.StepKeepsInvariant : Prop := ∀ s t : State, s.Inv → step s = .next t → t.Inv

/-- Every transaction of the host keeps the invariant, TICK, RESET and LOAD_ROM of any bytes among them
(60_exceptions.md R276), so the font region holds FONT_TABLE at every point after RESET (20_memory.md R88). -/
def Obligations.TransactionsKeepInvariant : Prop :=
  ∀ (tr : Transaction) (s t : State) (reply : Reply), s.Inv → transact tr s = .next (t, reply) → t.Inv

/-- Every state that any schedule of the host's ten transactions reaches from RESET meets the invariant, for all build
parameters of the spec's range and every FONT_TABLE. -/
def Obligations.ReachableStatesMeetInvariant : Prop := ∀ s : State, s.Reachable → s.Inv
end

