-- ==== Sys2Proof/Laws/Decode.lean ====
section
/-! SUPPORT. Sys2Proof/Laws/Decode.lean: what each field of a packed word is, and each field as arithmetic on the word's
number. -/

namespace Sys2Proof

@[simp] theorem nibbleNumber_ofFin (x : Fin 16) : nibbleNumber (BitVec.ofFin (w := 4) x) = x := rfl

@[simp] theorem ofFin_nibbleNumber (f : BitVec 4) : BitVec.ofFin (w := 4) (nibbleNumber f) = f := rfl

/-! ### Fields as numbers -/

theorem fieldOp_toNat (w : Word) : (fieldOp w).toNat = w.toNat / 4096 := by
  have := w.isLt
  simp only [fieldOp, BitVec.extractLsb'_toNat, Nat.shiftRight_eq_div_pow]
  omega

theorem fieldX_val (w : Word) : (fieldX w).val = w.toNat / 256 % 16 := by
  simp [fieldX, nibbleNumber, Nat.shiftRight_eq_div_pow]

theorem fieldY_val (w : Word) : (fieldY w).val = w.toNat / 16 % 16 := by
  simp [fieldY, nibbleNumber, Nat.shiftRight_eq_div_pow]

theorem fieldN_val (w : Word) : (fieldN w).val = w.toNat % 16 := by
  simp [fieldN, nibbleNumber]

theorem fieldFn_toNat (w : Word) : (fieldFn w).toNat = w.toNat % 16 := by
  simp [fieldFn]

theorem fieldNN_toNat (w : Word) : (fieldNN w).toNat = w.toNat % 256 := by
  simp [fieldNN]

theorem fieldNNN_toNat (w : Word) : (fieldNNN w).toNat = w.toNat % 4096 := by
  simp [fieldNNN]

/-! ### Packed words as numbers -/

theorem packXY_toNat (op : BitVec 4) (x y : Reg) (fn : BitVec 4) :
    (packXY op x y fn).toNat = op.toNat * 4096 + x.val * 256 + y.val * 16 + fn.toNat := by
  have h1 := op.isLt
  have h2 := x.isLt
  have h3 := y.isLt
  have h4 := fn.isLt
  simp only [packXY, BitVec.toNat_append, BitVec.toNat_ofFin]
  rw [← Nat.shiftLeft_add_eq_or_of_lt (by omega), ← Nat.shiftLeft_add_eq_or_of_lt (by omega),
    ← Nat.shiftLeft_add_eq_or_of_lt (by omega)]
  simp only [Nat.shiftLeft_eq]
  omega

theorem packXNN_toNat (op : BitVec 4) (x : Reg) (nn : Byte) :
    (packXNN op x nn).toNat = op.toNat * 4096 + x.val * 256 + nn.toNat := by
  have h1 := op.isLt
  have h2 := x.isLt
  have h3 := nn.isLt
  simp only [packXNN, BitVec.toNat_append, BitVec.toNat_ofFin]
  rw [← Nat.shiftLeft_add_eq_or_of_lt (by omega), ← Nat.shiftLeft_add_eq_or_of_lt (by omega)]
  simp only [Nat.shiftLeft_eq]
  omega

theorem packNNN_toNat (op : BitVec 4) (nnn : Addr12) :
    (packNNN op nnn).toNat = op.toNat * 4096 + nnn.toNat := by
  have h1 := op.isLt
  have h2 := nnn.isLt
  simp only [packNNN, BitVec.toNat_append]
  rw [← Nat.shiftLeft_add_eq_or_of_lt (by omega)]
  simp only [Nat.shiftLeft_eq]

/-! ### The fields of a packed word -/

@[simp] theorem fieldOp_packXY (op : BitVec 4) (x y : Reg) (fn : BitVec 4) : fieldOp (packXY op x y fn) = op := by
  apply BitVec.eq_of_toNat_eq
  rw [fieldOp_toNat, packXY_toNat]
  omega

@[simp] theorem fieldX_packXY (op : BitVec 4) (x y : Reg) (fn : BitVec 4) : fieldX (packXY op x y fn) = x := by
  apply Fin.ext
  rw [fieldX_val, packXY_toNat]
  omega

@[simp] theorem fieldY_packXY (op : BitVec 4) (x y : Reg) (fn : BitVec 4) : fieldY (packXY op x y fn) = y := by
  apply Fin.ext
  rw [fieldY_val, packXY_toNat]
  omega

@[simp] theorem fieldFn_packXY (op : BitVec 4) (x y : Reg) (fn : BitVec 4) : fieldFn (packXY op x y fn) = fn := by
  apply BitVec.eq_of_toNat_eq
  rw [fieldFn_toNat, packXY_toNat]
  omega

theorem fieldN_packXY (op : BitVec 4) (x y n : Fin 16) :
    fieldN (packXY op x y (BitVec.ofFin (w := 4) n)) = n := by
  apply Fin.ext
  have h : (BitVec.ofFin (w := 4) n).toNat = n.val := rfl
  rw [fieldN_val, packXY_toNat, h]
  omega

@[simp] theorem fieldOp_packXNN (op : BitVec 4) (x : Reg) (nn : Byte) : fieldOp (packXNN op x nn) = op := by
  apply BitVec.eq_of_toNat_eq
  rw [fieldOp_toNat, packXNN_toNat]
  omega

@[simp] theorem fieldX_packXNN (op : BitVec 4) (x : Reg) (nn : Byte) : fieldX (packXNN op x nn) = x := by
  apply Fin.ext
  rw [fieldX_val, packXNN_toNat]
  omega

@[simp] theorem fieldNN_packXNN (op : BitVec 4) (x : Reg) (nn : Byte) : fieldNN (packXNN op x nn) = nn := by
  apply BitVec.eq_of_toNat_eq
  rw [fieldNN_toNat, packXNN_toNat]
  omega

@[simp] theorem fieldOp_packNNN (op : BitVec 4) (nnn : Addr12) : fieldOp (packNNN op nnn) = op := by
  apply BitVec.eq_of_toNat_eq
  rw [fieldOp_toNat, packNNN_toNat]
  omega

@[simp] theorem fieldNNN_packNNN (op : BitVec 4) (nnn : Addr12) : fieldNNN (packNNN op nnn) = nnn := by
  apply BitVec.eq_of_toNat_eq
  rw [fieldNNN_toNat, packNNN_toNat]
  omega

/-- A nibble that is none of 0x0 to 0xE is 0xF: the last arm of `decode`. -/
theorem nibble_eq_F {f : BitVec 4} (h0 : f ≠ 0x0) (h1 : f ≠ 0x1) (h2 : f ≠ 0x2) (h3 : f ≠ 0x3) (h4 : f ≠ 0x4)
    (h5 : f ≠ 0x5) (h6 : f ≠ 0x6) (h7 : f ≠ 0x7) (h8 : f ≠ 0x8) (h9 : f ≠ 0x9) (hA : f ≠ 0xA) (hB : f ≠ 0xB)
    (hC : f ≠ 0xC) (hD : f ≠ 0xD) (hE : f ≠ 0xE) : f = 0xF#4 := by
  bv_omega

/-- The number of a word that `packXNN` packs, as the word it is. -/
theorem packXNN_eq_ofNat (op : BitVec 4) (x : Reg) (nn : Byte) :
    packXNN op x nn = BitVec.ofNat 16 (op.toNat * 4096 + x.val * 256 + nn.toNat) := by
  rw [← packXNN_toNat, BitVec.ofNat_toNat, BitVec.setWidth_eq]

/-- The number of a word that `packXY` packs, as the word it is. -/
theorem packXY_eq_ofNat (op : BitVec 4) (x y : Reg) (fn : BitVec 4) :
    packXY op x y fn = BitVec.ofNat 16 (op.toNat * 4096 + x.val * 256 + y.val * 16 + fn.toNat) := by
  rw [← packXY_toNat, BitVec.ofNat_toNat, BitVec.setWidth_eq]

/-- The number of a word that `packNNN` packs, as the word it is. -/
theorem packNNN_eq_ofNat (op : BitVec 4) (nnn : Addr12) :
    packNNN op nnn = BitVec.ofNat 16 (op.toNat * 4096 + nnn.toNat) := by
  rw [← packNNN_toNat, BitVec.ofNat_toNat, BitVec.setWidth_eq]

/-! ### A word is the pack of its fields -/

theorem packXY_fields (w : Word) : packXY (fieldOp w) (fieldX w) (fieldY w) (fieldFn w) = w := by
  apply BitVec.eq_of_toNat_eq
  rw [packXY_toNat, fieldOp_toNat, fieldX_val, fieldY_val, fieldFn_toNat]
  omega

theorem packXNN_fields (w : Word) : packXNN (fieldOp w) (fieldX w) (fieldNN w) = w := by
  apply BitVec.eq_of_toNat_eq
  rw [packXNN_toNat, fieldOp_toNat, fieldX_val, fieldNN_toNat]
  omega

theorem packNNN_fields (w : Word) : packNNN (fieldOp w) (fieldNNN w) = w := by
  apply BitVec.eq_of_toNat_eq
  rw [packNNN_toNat, fieldOp_toNat, fieldNNN_toNat]
  omega

/-- The two bytes of a word, put together again, are the word. -/
@[simp] theorem wordOfBytes_split (w : Word) : wordOfBytes (w.extractLsb' 8 8) (w.extractLsb' 0 8) = w := by
  have := w.isLt
  apply BitVec.eq_of_toNat_eq
  have h : (w.extractLsb' 0 8).toNat < 2 ^ 8 := (w.extractLsb' 0 8).isLt
  simp only [wordOfBytes, BitVec.toNat_append]
  rw [← Nat.shiftLeft_add_eq_or_of_lt h]
  simp only [BitVec.extractLsb'_toNat, Nat.shiftLeft_eq, Nat.shiftRight_eq_div_pow]
  omega

theorem wordOfBytes_toNat (hi lo : Byte) : (wordOfBytes hi lo).toNat = hi.toNat * 256 + lo.toNat := by
  simp only [wordOfBytes, BitVec.toNat_append]
  rw [← Nat.shiftLeft_add_eq_or_of_lt lo.isLt]
  simp only [Nat.shiftLeft_eq]

end Sys2Proof
end

