-- ==== Sys2Proof/Laws/Memory.lean ====
section
/-! SUPPORT. Sys2Proof/Laws/Memory.lean: every memory operation keeps the canonical form, and the basic laws of reads and
writes. -/

namespace Sys2Proof.Machine

variable {font : FontTable}

@[simp] theorem Memory.read_nil (a : Nat) : Memory.read font [] a = unlistedByte font a := rfl

theorem Memory.read_cons (a' : Nat) (b : Byte) (m : Memory) (a : Nat) :
    Memory.read font ((a', b) :: m) a = if a' = a then b else Memory.read font m a := rfl

theorem Memory.wfFrom_cons {lo a : Nat} {b : Byte} {m : Memory} :
    Memory.wfFrom font lo ((a, b) :: m) = true ↔
      lo ≤ a ∧ a < memSize ∧ b ≠ unlistedByte font a ∧ Memory.wfFrom font (a + 1) m = true := by
  simp [Memory.wfFrom, and_assoc]

theorem Memory.wfFrom_mono {lo lo' : Nat} {m : Memory} (hle : lo' ≤ lo) (h : Memory.wfFrom font lo m = true) :
    Memory.wfFrom font lo' m = true := by
  cases m with
  | nil => rfl
  | cons c m =>
    obtain ⟨a, b⟩ := c
    rw [Memory.wfFrom_cons] at h ⊢
    exact ⟨hle.trans h.1, h.2⟩

/-- Below the first listed address, memory reads its unlisted bytes. -/
theorem Memory.read_below {lo a : Nat} {m : Memory} (h : Memory.wfFrom font lo m = true) (ha : a < lo) :
    Memory.read font m a = unlistedByte font a := by
  induction m generalizing lo with
  | nil => rfl
  | cons c m ih =>
    obtain ⟨a', b⟩ := c
    rw [Memory.wfFrom_cons] at h
    rw [Memory.read_cons, if_neg (by omega)]
    exact ih h.2.2.2 (by omega)

theorem Memory.wfFrom_consCell {lo a : Nat} {b : Byte} {m : Memory} (hlo : lo ≤ a) (ha : a < memSize)
    (h : Memory.wfFrom font (a + 1) m = true) : Memory.wfFrom font lo (Memory.consCell font a b m) = true := by
  unfold Memory.consCell
  split
  · exact Memory.wfFrom_mono (by omega) h
  · exact Memory.wfFrom_cons.2 ⟨hlo, ha, ‹_›, h⟩

theorem Memory.wfFrom_put {lo a : Nat} {b : Byte} {m : Memory} (hlo : lo ≤ a) (ha : a < memSize)
    (h : Memory.wfFrom font lo m = true) : Memory.wfFrom font lo (Memory.put font a b m) = true := by
  induction m generalizing lo with
  | nil => exact Memory.wfFrom_consCell hlo ha rfl
  | cons c m ih =>
    obtain ⟨a', b'⟩ := c
    have hc := Memory.wfFrom_cons.1 h
    unfold Memory.put
    split
    · exact Memory.wfFrom_consCell hlo ha (Memory.wfFrom_cons.2 ⟨by omega, hc.2⟩)
    · split
      · subst ‹a = a'›
        exact Memory.wfFrom_consCell hlo ha hc.2.2.2
      · exact Memory.wfFrom_cons.2 ⟨hc.1, hc.2.1, hc.2.2.1, ih (by omega) hc.2.2.2⟩

theorem Memory.wf_write {m : Memory} (a : Nat) (b : Byte) (h : m.wf font = true) : (m.write font a b).wf font = true := by
  unfold Memory.write
  split
  · exact Memory.wfFrom_put (Nat.zero_le a) ‹_› h
  · exact h

theorem Memory.wf_writeBytes {m : Memory} (base : Nat) (bs : List Byte) (h : m.wf font = true) :
    (m.writeBytes font base bs).wf font = true := by
  induction bs generalizing m base with
  | nil => exact h
  | cons b bs ih => exact ih (base + 1) (Memory.wf_write base b h)

theorem Memory.wf_writeWord {m : Memory} (a : Nat) (w : Word) (h : m.wf font = true) : (m.writeWord font a w).wf font = true :=
  Memory.wf_writeBytes a _ h

theorem Memory.read_consCell_other {a c : Nat} {b : Byte} {m : Memory} (hne : c ≠ a) :
    Memory.read font (Memory.consCell font a b m) c = Memory.read font m c := by
  unfold Memory.consCell
  split
  · rfl
  · rw [Memory.read_cons, if_neg (fun e => hne e.symm)]

theorem Memory.read_put_other {a c : Nat} {b : Byte} (m : Memory) (hne : c ≠ a) :
    Memory.read font (Memory.put font a b m) c = Memory.read font m c := by
  induction m with
  | nil => exact Memory.read_consCell_other hne
  | cons p m ih =>
    obtain ⟨a', b'⟩ := p
    unfold Memory.put
    split
    · exact Memory.read_consCell_other hne
    · split
      · subst ‹a = a'›
        rw [Memory.read_consCell_other hne, Memory.read_cons, if_neg (fun e => hne e.symm)]
      · rw [Memory.read_cons, Memory.read_cons, ih]

theorem Memory.read_consCell_same {a : Nat} {b : Byte} {m : Memory} (h : Memory.wfFrom font (a + 1) m = true) :
    Memory.read font (Memory.consCell font a b m) a = b := by
  unfold Memory.consCell
  split
  · rw [Memory.read_below h (by omega), ‹b = _›]
  · rw [Memory.read_cons, if_pos rfl]

theorem Memory.read_put_same {lo a : Nat} {b : Byte} {m : Memory} (h : Memory.wfFrom font lo m = true) :
    Memory.read font (Memory.put font a b m) a = b := by
  induction m generalizing lo with
  | nil => exact Memory.read_consCell_same rfl
  | cons p m ih =>
    obtain ⟨a', b'⟩ := p
    have hc := Memory.wfFrom_cons.1 h
    unfold Memory.put
    split
    · exact Memory.read_consCell_same (Memory.wfFrom_cons.2 ⟨by omega, hc.2⟩)
    · split
      · subst ‹a = a'›
        exact Memory.read_consCell_same hc.2.2.2
      · rw [Memory.read_cons, if_neg (fun e => ‹¬a = a'› e.symm), ih hc.2.2.2]

/-- A write leaves every other byte alone. -/
theorem Memory.read_write_other {a c : Nat} {b : Byte} (m : Memory) (hne : c ≠ a) :
    (m.write font a b).read font c = m.read font c := by
  unfold Memory.write
  split
  · exact Memory.read_put_other m hne
  · rfl

/-- A read after a write to the same byte gives the value written. -/
theorem Memory.read_write_same {m : Memory} {a : Nat} (b : Byte) (h : m.wf font = true) (ha : a < memSize) :
    (m.write font a b).read font a = b := by
  rw [Memory.write, if_pos ha]
  exact Memory.read_put_same h

/-- Bytes written from `base` up leave every address outside them alone. -/
theorem Memory.read_writeBytes_outside {c : Nat} (m : Memory) (base : Nat) (bs : List Byte)
    (hc : c < base ∨ base + bs.length ≤ c) : (m.writeBytes font base bs).read font c = m.read font c := by
  induction bs generalizing m base with
  | nil => rfl
  | cons b bs ih =>
    rw [List.length_cons] at hc
    rw [Memory.writeBytes, ih (m.write font base b) (base + 1) (by omega), Memory.read_write_other m (by omega)]

/-- Each byte written from `base` up reads back. -/
theorem Memory.read_writeBytes_inside {m : Memory} (base : Nat) (bs : List Byte) (k : Nat) (h : m.wf font = true)
    (hk : k < bs.length) (hend : base + bs.length ≤ memSize) : (m.writeBytes font base bs).read font (base + k) = bs[k] := by
  induction bs generalizing m base k with
  | nil => simp at hk
  | cons b bs ih =>
    rw [List.length_cons] at hk hend
    rw [Memory.writeBytes]
    cases k with
    | zero =>
      rw [Memory.read_writeBytes_outside _ _ _ (by omega), Nat.add_zero, Memory.read_write_same b h (by omega)]
      rfl
    | succ k =>
      rw [show base + (k + 1) = base + 1 + k by omega, ih (base + 1) k (Memory.wf_write base b h) (by omega) (by omega)]
      rfl

/-! ### What memory reads before anything is written -/

theorem unlistedByte_font (a : Nat) (h : a < fontSize) : unlistedByte font a = font[a]'h := dif_pos h

theorem unlistedByte_above {a : Nat} (h : fontSize ≤ a) : unlistedByte font a = 0#8 := dif_neg (by omega)

/-! ### The same laws at a state, whose block fixes the font -/

theorem State.memWf_congr {s t : State} (hm : t.mem = s.mem) (hb : t.build = s.build) : t.memWf = s.memWf := by
  rw [State.memWf, State.memWf, hm, hb]

theorem State.readByte_congr {s t : State} (hm : t.mem = s.mem) (hb : t.build = s.build) (a : Nat) :
    t.readByte a = s.readByte a := by
  rw [State.readByte, State.readByte, hm, hb]

theorem State.memWf_writeFrom {s : State} (base : Nat) (bytes : List Byte) (h : s.memWf = true) :
    (s.writeFrom base bytes).memWf = true :=
  Memory.wf_writeBytes base bytes h

theorem State.readByte_writeFrom_outside {s : State} {base a : Nat} (bytes : List Byte)
    (ha : a < base ∨ base + bytes.length ≤ a) : (s.writeFrom base bytes).readByte a = s.readByte a :=
  Memory.read_writeBytes_outside s.mem base bytes ha

theorem State.readByte_writeFrom_inside {s : State} {base : Nat} (bytes : List Byte) (k : Nat) (h : s.memWf = true)
    (hk : k < bytes.length) (hend : base + bytes.length ≤ memSize) :
    (s.writeFrom base bytes).readByte (base + k) = bytes[k] :=
  Memory.read_writeBytes_inside base bytes k h hk hend

end Sys2Proof.Machine
end

