-- ==== Sys2Proof/Laws/State.lean ====
section
/-! SUPPORT. Sys2Proof/Laws/State.lean: what each shared update of State does to each field, so that no later proof unfolds
a record update. -/

namespace Sys2Proof.Machine

/-! ### setReg -/

@[simp] theorem State.setReg_mem (x : Reg) (b : Byte) (s : State) : (s.setReg x b).mem = s.mem := rfl
@[simp] theorem State.setReg_v (x : Reg) (b : Byte) (s : State) : (s.setReg x b).v = s.v.set x.val b := rfl
@[simp] theorem State.setReg_pc (x : Reg) (b : Byte) (s : State) : (s.setReg x b).pc = s.pc := rfl
@[simp] theorem State.setReg_index (x : Reg) (b : Byte) (s : State) : (s.setReg x b).index = s.index := rfl
@[simp] theorem State.setReg_stack (x : Reg) (b : Byte) (s : State) : (s.setReg x b).stack = s.stack := rfl
@[simp] theorem State.setReg_dt (x : Reg) (b : Byte) (s : State) : (s.setReg x b).dt = s.dt := rfl
@[simp] theorem State.setReg_st (x : Reg) (b : Byte) (s : State) : (s.setReg x b).st = s.st := rfl
@[simp] theorem State.setReg_fb (x : Reg) (b : Byte) (s : State) : (s.setReg x b).fb = s.fb := rfl
@[simp] theorem State.setReg_drawFlag (x : Reg) (b : Byte) (s : State) : (s.setReg x b).drawFlag = s.drawFlag := rfl
@[simp] theorem State.setReg_keys (x : Reg) (b : Byte) (s : State) : (s.setReg x b).keys = s.keys := rfl
@[simp] theorem State.setReg_romLoaded (x : Reg) (b : Byte) (s : State) :
    (s.setReg x b).romLoaded = s.romLoaded := rfl
@[simp] theorem State.setReg_fault (x : Reg) (b : Byte) (s : State) : (s.setReg x b).fault = s.fault := rfl
@[simp] theorem State.setReg_draws (x : Reg) (b : Byte) (s : State) : (s.setReg x b).draws = s.draws := rfl
@[simp] theorem State.setReg_build (x : Reg) (b : Byte) (s : State) : (s.setReg x b).build = s.build := rfl

/-! ### setRegThenFlag -/

@[simp] theorem State.setRegThenFlag_mem (x : Reg) (b f : Byte) (s : State) :
    (s.setRegThenFlag x b f).mem = s.mem := rfl
@[simp] theorem State.setRegThenFlag_v (x : Reg) (b f : Byte) (s : State) :
    (s.setRegThenFlag x b f).v = (s.v.set x.val b).set regF.val f := rfl
@[simp] theorem State.setRegThenFlag_pc (x : Reg) (b f : Byte) (s : State) : (s.setRegThenFlag x b f).pc = s.pc := rfl
@[simp] theorem State.setRegThenFlag_index (x : Reg) (b f : Byte) (s : State) :
    (s.setRegThenFlag x b f).index = s.index := rfl
@[simp] theorem State.setRegThenFlag_stack (x : Reg) (b f : Byte) (s : State) :
    (s.setRegThenFlag x b f).stack = s.stack := rfl
@[simp] theorem State.setRegThenFlag_dt (x : Reg) (b f : Byte) (s : State) : (s.setRegThenFlag x b f).dt = s.dt := rfl
@[simp] theorem State.setRegThenFlag_st (x : Reg) (b f : Byte) (s : State) : (s.setRegThenFlag x b f).st = s.st := rfl
@[simp] theorem State.setRegThenFlag_fb (x : Reg) (b f : Byte) (s : State) : (s.setRegThenFlag x b f).fb = s.fb := rfl
@[simp] theorem State.setRegThenFlag_drawFlag (x : Reg) (b f : Byte) (s : State) :
    (s.setRegThenFlag x b f).drawFlag = s.drawFlag := rfl
@[simp] theorem State.setRegThenFlag_keys (x : Reg) (b f : Byte) (s : State) :
    (s.setRegThenFlag x b f).keys = s.keys := rfl
@[simp] theorem State.setRegThenFlag_romLoaded (x : Reg) (b f : Byte) (s : State) :
    (s.setRegThenFlag x b f).romLoaded = s.romLoaded := rfl
@[simp] theorem State.setRegThenFlag_fault (x : Reg) (b f : Byte) (s : State) :
    (s.setRegThenFlag x b f).fault = s.fault := rfl
@[simp] theorem State.setRegThenFlag_draws (x : Reg) (b f : Byte) (s : State) :
    (s.setRegThenFlag x b f).draws = s.draws := rfl
@[simp] theorem State.setRegThenFlag_build (x : Reg) (b f : Byte) (s : State) :
    (s.setRegThenFlag x b f).build = s.build := rfl

/-! ### setLogicResult -/

@[simp] theorem State.setLogicResult_mem (x : Reg) (b : Byte) (s : State) :
    (s.setLogicResult x b).mem = s.mem := by unfold State.setLogicResult; split <;> rfl
@[simp] theorem State.setLogicResult_pc (x : Reg) (b : Byte) (s : State) :
    (s.setLogicResult x b).pc = s.pc := by unfold State.setLogicResult; split <;> rfl
@[simp] theorem State.setLogicResult_index (x : Reg) (b : Byte) (s : State) :
    (s.setLogicResult x b).index = s.index := by unfold State.setLogicResult; split <;> rfl
@[simp] theorem State.setLogicResult_stack (x : Reg) (b : Byte) (s : State) :
    (s.setLogicResult x b).stack = s.stack := by unfold State.setLogicResult; split <;> rfl
@[simp] theorem State.setLogicResult_dt (x : Reg) (b : Byte) (s : State) :
    (s.setLogicResult x b).dt = s.dt := by unfold State.setLogicResult; split <;> rfl
@[simp] theorem State.setLogicResult_st (x : Reg) (b : Byte) (s : State) :
    (s.setLogicResult x b).st = s.st := by unfold State.setLogicResult; split <;> rfl
@[simp] theorem State.setLogicResult_fb (x : Reg) (b : Byte) (s : State) :
    (s.setLogicResult x b).fb = s.fb := by unfold State.setLogicResult; split <;> rfl
@[simp] theorem State.setLogicResult_drawFlag (x : Reg) (b : Byte) (s : State) :
    (s.setLogicResult x b).drawFlag = s.drawFlag := by unfold State.setLogicResult; split <;> rfl
@[simp] theorem State.setLogicResult_keys (x : Reg) (b : Byte) (s : State) :
    (s.setLogicResult x b).keys = s.keys := by unfold State.setLogicResult; split <;> rfl
@[simp] theorem State.setLogicResult_romLoaded (x : Reg) (b : Byte) (s : State) :
    (s.setLogicResult x b).romLoaded = s.romLoaded := by unfold State.setLogicResult; split <;> rfl
@[simp] theorem State.setLogicResult_fault (x : Reg) (b : Byte) (s : State) :
    (s.setLogicResult x b).fault = s.fault := by unfold State.setLogicResult; split <;> rfl
@[simp] theorem State.setLogicResult_draws (x : Reg) (b : Byte) (s : State) :
    (s.setLogicResult x b).draws = s.draws := by unfold State.setLogicResult; split <;> rfl
@[simp] theorem State.setLogicResult_build (x : Reg) (b : Byte) (s : State) :
    (s.setLogicResult x b).build = s.build := by unfold State.setLogicResult; split <;> rfl

/-! ### afterFetch -/

@[simp] theorem State.afterFetch_mem (s : State) : s.afterFetch.mem = s.mem := rfl
@[simp] theorem State.afterFetch_v (s : State) : s.afterFetch.v = s.v := rfl
@[simp] theorem State.afterFetch_pc (s : State) : s.afterFetch.pc = s.pc + 2#16 := rfl
@[simp] theorem State.afterFetch_index (s : State) : s.afterFetch.index = s.index := rfl
@[simp] theorem State.afterFetch_stack (s : State) : s.afterFetch.stack = s.stack := rfl
@[simp] theorem State.afterFetch_dt (s : State) : s.afterFetch.dt = s.dt := rfl
@[simp] theorem State.afterFetch_st (s : State) : s.afterFetch.st = s.st := rfl
@[simp] theorem State.afterFetch_fb (s : State) : s.afterFetch.fb = s.fb := rfl
@[simp] theorem State.afterFetch_drawFlag (s : State) : s.afterFetch.drawFlag = s.drawFlag := rfl
@[simp] theorem State.afterFetch_keys (s : State) : s.afterFetch.keys = s.keys := rfl
@[simp] theorem State.afterFetch_romLoaded (s : State) : s.afterFetch.romLoaded = s.romLoaded := rfl
@[simp] theorem State.afterFetch_fault (s : State) : s.afterFetch.fault = s.fault := rfl
@[simp] theorem State.afterFetch_draws (s : State) : s.afterFetch.draws = s.draws := rfl
@[simp] theorem State.afterFetch_build (s : State) : s.afterFetch.build = s.build := rfl

/-! ### jumpTo -/

@[simp] theorem State.jumpTo_mem (w : Word) (s : State) : (s.jumpTo w).mem = s.mem := rfl
@[simp] theorem State.jumpTo_v (w : Word) (s : State) : (s.jumpTo w).v = s.v := rfl
@[simp] theorem State.jumpTo_pc (w : Word) (s : State) : (s.jumpTo w).pc = w := rfl
@[simp] theorem State.jumpTo_index (w : Word) (s : State) : (s.jumpTo w).index = s.index := rfl
@[simp] theorem State.jumpTo_stack (w : Word) (s : State) : (s.jumpTo w).stack = s.stack := rfl
@[simp] theorem State.jumpTo_dt (w : Word) (s : State) : (s.jumpTo w).dt = s.dt := rfl
@[simp] theorem State.jumpTo_st (w : Word) (s : State) : (s.jumpTo w).st = s.st := rfl
@[simp] theorem State.jumpTo_fb (w : Word) (s : State) : (s.jumpTo w).fb = s.fb := rfl
@[simp] theorem State.jumpTo_drawFlag (w : Word) (s : State) : (s.jumpTo w).drawFlag = s.drawFlag := rfl
@[simp] theorem State.jumpTo_keys (w : Word) (s : State) : (s.jumpTo w).keys = s.keys := rfl
@[simp] theorem State.jumpTo_romLoaded (w : Word) (s : State) : (s.jumpTo w).romLoaded = s.romLoaded := rfl
@[simp] theorem State.jumpTo_fault (w : Word) (s : State) : (s.jumpTo w).fault = s.fault := rfl
@[simp] theorem State.jumpTo_draws (w : Word) (s : State) : (s.jumpTo w).draws = s.draws := rfl
@[simp] theorem State.jumpTo_build (w : Word) (s : State) : (s.jumpTo w).build = s.build := rfl

/-! ### skipIf -/

@[simp] theorem State.skipIf_mem (c : Bool) (s : State) : (s.skipIf c).mem = s.mem := by cases c <;> rfl
@[simp] theorem State.skipIf_v (c : Bool) (s : State) : (s.skipIf c).v = s.v := by cases c <;> rfl
@[simp] theorem State.skipIf_pc (c : Bool) (s : State) :
    (s.skipIf c).pc = if c then s.pc + 2#16 else s.pc := by cases c <;> rfl
@[simp] theorem State.skipIf_index (c : Bool) (s : State) : (s.skipIf c).index = s.index := by cases c <;> rfl
@[simp] theorem State.skipIf_stack (c : Bool) (s : State) : (s.skipIf c).stack = s.stack := by cases c <;> rfl
@[simp] theorem State.skipIf_dt (c : Bool) (s : State) : (s.skipIf c).dt = s.dt := by cases c <;> rfl
@[simp] theorem State.skipIf_st (c : Bool) (s : State) : (s.skipIf c).st = s.st := by cases c <;> rfl
@[simp] theorem State.skipIf_fb (c : Bool) (s : State) : (s.skipIf c).fb = s.fb := by cases c <;> rfl
@[simp] theorem State.skipIf_drawFlag (c : Bool) (s : State) :
    (s.skipIf c).drawFlag = s.drawFlag := by cases c <;> rfl
@[simp] theorem State.skipIf_keys (c : Bool) (s : State) : (s.skipIf c).keys = s.keys := by cases c <;> rfl
@[simp] theorem State.skipIf_romLoaded (c : Bool) (s : State) :
    (s.skipIf c).romLoaded = s.romLoaded := by cases c <;> rfl
@[simp] theorem State.skipIf_fault (c : Bool) (s : State) : (s.skipIf c).fault = s.fault := by cases c <;> rfl
@[simp] theorem State.skipIf_draws (c : Bool) (s : State) : (s.skipIf c).draws = s.draws := by cases c <;> rfl
@[simp] theorem State.skipIf_build (c : Bool) (s : State) : (s.skipIf c).build = s.build := by cases c <;> rfl

/-! ### raise -/

@[simp] theorem State.raise_mem (k : FaultKind) (w : Option Word) (s : State) : (s.raise k w).mem = s.mem := rfl
@[simp] theorem State.raise_v (k : FaultKind) (w : Option Word) (s : State) : (s.raise k w).v = s.v := rfl
@[simp] theorem State.raise_pc (k : FaultKind) (w : Option Word) (s : State) : (s.raise k w).pc = s.pc := rfl
@[simp] theorem State.raise_index (k : FaultKind) (w : Option Word) (s : State) : (s.raise k w).index = s.index := rfl
@[simp] theorem State.raise_stack (k : FaultKind) (w : Option Word) (s : State) : (s.raise k w).stack = s.stack := rfl
@[simp] theorem State.raise_dt (k : FaultKind) (w : Option Word) (s : State) : (s.raise k w).dt = s.dt := rfl
@[simp] theorem State.raise_st (k : FaultKind) (w : Option Word) (s : State) : (s.raise k w).st = s.st := rfl
@[simp] theorem State.raise_fb (k : FaultKind) (w : Option Word) (s : State) : (s.raise k w).fb = s.fb := rfl
@[simp] theorem State.raise_drawFlag (k : FaultKind) (w : Option Word) (s : State) :
    (s.raise k w).drawFlag = s.drawFlag := rfl
@[simp] theorem State.raise_keys (k : FaultKind) (w : Option Word) (s : State) : (s.raise k w).keys = s.keys := rfl
@[simp] theorem State.raise_romLoaded (k : FaultKind) (w : Option Word) (s : State) :
    (s.raise k w).romLoaded = s.romLoaded := rfl
@[simp] theorem State.raise_fault (k : FaultKind) (w : Option Word) (s : State) :
    (s.raise k w).fault = some { kind := k, pcAt := s.pc, word := w } := rfl
@[simp] theorem State.raise_draws (k : FaultKind) (w : Option Word) (s : State) : (s.raise k w).draws = s.draws := rfl
@[simp] theorem State.raise_build (k : FaultKind) (w : Option Word) (s : State) : (s.raise k w).build = s.build := rfl

/-! ### writeFrom -/

@[simp] theorem State.writeFrom_mem (base : Nat) (bs : List Byte) (s : State) :
    (s.writeFrom base bs).mem = s.mem.writeBytes s.build.fontTable base bs := rfl
@[simp] theorem State.writeFrom_v (base : Nat) (bs : List Byte) (s : State) : (s.writeFrom base bs).v = s.v := rfl
@[simp] theorem State.writeFrom_pc (base : Nat) (bs : List Byte) (s : State) : (s.writeFrom base bs).pc = s.pc := rfl
@[simp] theorem State.writeFrom_index (base : Nat) (bs : List Byte) (s : State) : (s.writeFrom base bs).index = s.index := rfl
@[simp] theorem State.writeFrom_stack (base : Nat) (bs : List Byte) (s : State) : (s.writeFrom base bs).stack = s.stack := rfl
@[simp] theorem State.writeFrom_dt (base : Nat) (bs : List Byte) (s : State) : (s.writeFrom base bs).dt = s.dt := rfl
@[simp] theorem State.writeFrom_st (base : Nat) (bs : List Byte) (s : State) : (s.writeFrom base bs).st = s.st := rfl
@[simp] theorem State.writeFrom_fb (base : Nat) (bs : List Byte) (s : State) : (s.writeFrom base bs).fb = s.fb := rfl
@[simp] theorem State.writeFrom_drawFlag (base : Nat) (bs : List Byte) (s : State) : (s.writeFrom base bs).drawFlag = s.drawFlag := rfl
@[simp] theorem State.writeFrom_keys (base : Nat) (bs : List Byte) (s : State) : (s.writeFrom base bs).keys = s.keys := rfl
@[simp] theorem State.writeFrom_romLoaded (base : Nat) (bs : List Byte) (s : State) : (s.writeFrom base bs).romLoaded = s.romLoaded := rfl
@[simp] theorem State.writeFrom_fault (base : Nat) (bs : List Byte) (s : State) : (s.writeFrom base bs).fault = s.fault := rfl
@[simp] theorem State.writeFrom_draws (base : Nat) (bs : List Byte) (s : State) : (s.writeFrom base bs).draws = s.draws := rfl
@[simp] theorem State.writeFrom_build (base : Nat) (bs : List Byte) (s : State) : (s.writeFrom base bs).build = s.build := rfl
@[simp] theorem State.writeFrom_reg (base : Nat) (bs : List Byte) (s : State) (y : Reg) : (s.writeFrom base bs).reg y = s.reg y := rfl

/-! ### storeAtIndex -/

@[simp] theorem State.storeAtIndex_mem (bs : List Byte) (s : State) :
    (s.storeAtIndex bs).mem = s.mem.writeBytes s.build.fontTable s.index.toNat bs := rfl
@[simp] theorem State.storeAtIndex_v (bs : List Byte) (s : State) : (s.storeAtIndex bs).v = s.v := rfl
@[simp] theorem State.storeAtIndex_pc (bs : List Byte) (s : State) : (s.storeAtIndex bs).pc = s.pc := rfl
@[simp] theorem State.storeAtIndex_index (bs : List Byte) (s : State) : (s.storeAtIndex bs).index = s.index := rfl
@[simp] theorem State.storeAtIndex_stack (bs : List Byte) (s : State) : (s.storeAtIndex bs).stack = s.stack := rfl
@[simp] theorem State.storeAtIndex_dt (bs : List Byte) (s : State) : (s.storeAtIndex bs).dt = s.dt := rfl
@[simp] theorem State.storeAtIndex_st (bs : List Byte) (s : State) : (s.storeAtIndex bs).st = s.st := rfl
@[simp] theorem State.storeAtIndex_fb (bs : List Byte) (s : State) : (s.storeAtIndex bs).fb = s.fb := rfl
@[simp] theorem State.storeAtIndex_drawFlag (bs : List Byte) (s : State) :
    (s.storeAtIndex bs).drawFlag = s.drawFlag := rfl
@[simp] theorem State.storeAtIndex_keys (bs : List Byte) (s : State) : (s.storeAtIndex bs).keys = s.keys := rfl
@[simp] theorem State.storeAtIndex_romLoaded (bs : List Byte) (s : State) :
    (s.storeAtIndex bs).romLoaded = s.romLoaded := rfl
@[simp] theorem State.storeAtIndex_fault (bs : List Byte) (s : State) : (s.storeAtIndex bs).fault = s.fault := rfl
@[simp] theorem State.storeAtIndex_draws (bs : List Byte) (s : State) : (s.storeAtIndex bs).draws = s.draws := rfl
@[simp] theorem State.storeAtIndex_build (bs : List Byte) (s : State) : (s.storeAtIndex bs).build = s.build := rfl

/-! ### bumpIndex -/

@[simp] theorem State.bumpIndex_mem (x : Reg) (s : State) :
    (s.bumpIndex x).mem = s.mem := by unfold State.bumpIndex; split <;> rfl
@[simp] theorem State.bumpIndex_v (x : Reg) (s : State) :
    (s.bumpIndex x).v = s.v := by unfold State.bumpIndex; split <;> rfl
@[simp] theorem State.bumpIndex_pc (x : Reg) (s : State) :
    (s.bumpIndex x).pc = s.pc := by unfold State.bumpIndex; split <;> rfl
@[simp] theorem State.bumpIndex_index (x : Reg) (s : State) :
    (s.bumpIndex x).index = if s.build.loadstoreIncrementsI then s.index + BitVec.ofNat 16 (x.val + 1) else s.index := by unfold State.bumpIndex; split <;> rfl
@[simp] theorem State.bumpIndex_stack (x : Reg) (s : State) :
    (s.bumpIndex x).stack = s.stack := by unfold State.bumpIndex; split <;> rfl
@[simp] theorem State.bumpIndex_dt (x : Reg) (s : State) :
    (s.bumpIndex x).dt = s.dt := by unfold State.bumpIndex; split <;> rfl
@[simp] theorem State.bumpIndex_st (x : Reg) (s : State) :
    (s.bumpIndex x).st = s.st := by unfold State.bumpIndex; split <;> rfl
@[simp] theorem State.bumpIndex_fb (x : Reg) (s : State) :
    (s.bumpIndex x).fb = s.fb := by unfold State.bumpIndex; split <;> rfl
@[simp] theorem State.bumpIndex_drawFlag (x : Reg) (s : State) :
    (s.bumpIndex x).drawFlag = s.drawFlag := by unfold State.bumpIndex; split <;> rfl
@[simp] theorem State.bumpIndex_keys (x : Reg) (s : State) :
    (s.bumpIndex x).keys = s.keys := by unfold State.bumpIndex; split <;> rfl
@[simp] theorem State.bumpIndex_romLoaded (x : Reg) (s : State) :
    (s.bumpIndex x).romLoaded = s.romLoaded := by unfold State.bumpIndex; split <;> rfl
@[simp] theorem State.bumpIndex_fault (x : Reg) (s : State) :
    (s.bumpIndex x).fault = s.fault := by unfold State.bumpIndex; split <;> rfl
@[simp] theorem State.bumpIndex_draws (x : Reg) (s : State) :
    (s.bumpIndex x).draws = s.draws := by unfold State.bumpIndex; split <;> rfl
@[simp] theorem State.bumpIndex_build (x : Reg) (s : State) :
    (s.bumpIndex x).build = s.build := by unfold State.bumpIndex; split <;> rfl

/-! ### setIndex -/

@[simp] theorem State.setIndex_mem (w : Word) (s : State) : (s.setIndex w).mem = s.mem := rfl
@[simp] theorem State.setIndex_v (w : Word) (s : State) : (s.setIndex w).v = s.v := rfl
@[simp] theorem State.setIndex_pc (w : Word) (s : State) : (s.setIndex w).pc = s.pc := rfl
@[simp] theorem State.setIndex_index (w : Word) (s : State) : (s.setIndex w).index = w := rfl
@[simp] theorem State.setIndex_stack (w : Word) (s : State) : (s.setIndex w).stack = s.stack := rfl
@[simp] theorem State.setIndex_dt (w : Word) (s : State) : (s.setIndex w).dt = s.dt := rfl
@[simp] theorem State.setIndex_st (w : Word) (s : State) : (s.setIndex w).st = s.st := rfl
@[simp] theorem State.setIndex_fb (w : Word) (s : State) : (s.setIndex w).fb = s.fb := rfl
@[simp] theorem State.setIndex_drawFlag (w : Word) (s : State) : (s.setIndex w).drawFlag = s.drawFlag := rfl
@[simp] theorem State.setIndex_keys (w : Word) (s : State) : (s.setIndex w).keys = s.keys := rfl
@[simp] theorem State.setIndex_romLoaded (w : Word) (s : State) : (s.setIndex w).romLoaded = s.romLoaded := rfl
@[simp] theorem State.setIndex_fault (w : Word) (s : State) : (s.setIndex w).fault = s.fault := rfl
@[simp] theorem State.setIndex_draws (w : Word) (s : State) : (s.setIndex w).draws = s.draws := rfl
@[simp] theorem State.setIndex_build (w : Word) (s : State) : (s.setIndex w).build = s.build := rfl

/-! ### loadRegBlock -/

@[simp] theorem State.loadRegBlock_mem (x : Reg) (s : State) : (s.loadRegBlock x).mem = s.mem := rfl
@[simp] theorem State.loadRegBlock_v (x : Reg) (s : State) :
    (s.loadRegBlock x).v = Vector.ofFn (fun k : Fin 16 => if k ≤ x then s.readByte (s.effAddr k.val) else s.reg k) := rfl
@[simp] theorem State.loadRegBlock_pc (x : Reg) (s : State) : (s.loadRegBlock x).pc = s.pc := rfl
@[simp] theorem State.loadRegBlock_index (x : Reg) (s : State) : (s.loadRegBlock x).index = s.index := rfl
@[simp] theorem State.loadRegBlock_stack (x : Reg) (s : State) : (s.loadRegBlock x).stack = s.stack := rfl
@[simp] theorem State.loadRegBlock_dt (x : Reg) (s : State) : (s.loadRegBlock x).dt = s.dt := rfl
@[simp] theorem State.loadRegBlock_st (x : Reg) (s : State) : (s.loadRegBlock x).st = s.st := rfl
@[simp] theorem State.loadRegBlock_fb (x : Reg) (s : State) : (s.loadRegBlock x).fb = s.fb := rfl
@[simp] theorem State.loadRegBlock_drawFlag (x : Reg) (s : State) : (s.loadRegBlock x).drawFlag = s.drawFlag := rfl
@[simp] theorem State.loadRegBlock_keys (x : Reg) (s : State) : (s.loadRegBlock x).keys = s.keys := rfl
@[simp] theorem State.loadRegBlock_romLoaded (x : Reg) (s : State) : (s.loadRegBlock x).romLoaded = s.romLoaded := rfl
@[simp] theorem State.loadRegBlock_fault (x : Reg) (s : State) : (s.loadRegBlock x).fault = s.fault := rfl
@[simp] theorem State.loadRegBlock_draws (x : Reg) (s : State) : (s.loadRegBlock x).draws = s.draws := rfl
@[simp] theorem State.loadRegBlock_build (x : Reg) (s : State) : (s.loadRegBlock x).build = s.build := rfl

/-! ### showRaster -/

@[simp] theorem State.showRaster_mem (r : Raster) (s : State) : (s.showRaster r).mem = s.mem := rfl
@[simp] theorem State.showRaster_v (r : Raster) (s : State) :
    (s.showRaster r).v = s.v.set regF.val (flagByte r.col) := rfl
@[simp] theorem State.showRaster_pc (r : Raster) (s : State) : (s.showRaster r).pc = s.pc := rfl
@[simp] theorem State.showRaster_index (r : Raster) (s : State) : (s.showRaster r).index = s.index := rfl
@[simp] theorem State.showRaster_stack (r : Raster) (s : State) : (s.showRaster r).stack = s.stack := rfl
@[simp] theorem State.showRaster_dt (r : Raster) (s : State) : (s.showRaster r).dt = s.dt := rfl
@[simp] theorem State.showRaster_st (r : Raster) (s : State) : (s.showRaster r).st = s.st := rfl
@[simp] theorem State.showRaster_fb (r : Raster) (s : State) : (s.showRaster r).fb = r.fb := rfl
@[simp] theorem State.showRaster_drawFlag (r : Raster) (s : State) : (s.showRaster r).drawFlag = true := rfl
@[simp] theorem State.showRaster_keys (r : Raster) (s : State) : (s.showRaster r).keys = s.keys := rfl
@[simp] theorem State.showRaster_romLoaded (r : Raster) (s : State) : (s.showRaster r).romLoaded = s.romLoaded := rfl
@[simp] theorem State.showRaster_fault (r : Raster) (s : State) : (s.showRaster r).fault = s.fault := rfl
@[simp] theorem State.showRaster_draws (r : Raster) (s : State) : (s.showRaster r).draws = s.draws := rfl
@[simp] theorem State.showRaster_build (r : Raster) (s : State) : (s.showRaster r).build = s.build := rfl

/-! ### countDraw -/

@[simp] theorem State.countDraw_mem (s : State) : s.countDraw.mem = s.mem := rfl
@[simp] theorem State.countDraw_v (s : State) : s.countDraw.v = s.v := rfl
@[simp] theorem State.countDraw_pc (s : State) : s.countDraw.pc = s.pc := rfl
@[simp] theorem State.countDraw_index (s : State) : s.countDraw.index = s.index := rfl
@[simp] theorem State.countDraw_stack (s : State) : s.countDraw.stack = s.stack := rfl
@[simp] theorem State.countDraw_dt (s : State) : s.countDraw.dt = s.dt := rfl
@[simp] theorem State.countDraw_st (s : State) : s.countDraw.st = s.st := rfl
@[simp] theorem State.countDraw_fb (s : State) : s.countDraw.fb = s.fb := rfl
@[simp] theorem State.countDraw_drawFlag (s : State) : s.countDraw.drawFlag = s.drawFlag := rfl
@[simp] theorem State.countDraw_keys (s : State) : s.countDraw.keys = s.keys := rfl
@[simp] theorem State.countDraw_romLoaded (s : State) : s.countDraw.romLoaded = s.romLoaded := rfl
@[simp] theorem State.countDraw_fault (s : State) : s.countDraw.fault = s.fault := rfl
@[simp] theorem State.countDraw_draws (s : State) : s.countDraw.draws = s.draws + 1 := rfl
@[simp] theorem State.countDraw_build (s : State) : s.countDraw.build = s.build := rfl

/-! ### timerTick -/

@[simp] theorem State.timerTick_mem (s : State) : s.timerTick.mem = s.mem := rfl
@[simp] theorem State.timerTick_v (s : State) : s.timerTick.v = s.v := rfl
@[simp] theorem State.timerTick_pc (s : State) : s.timerTick.pc = s.pc := rfl
@[simp] theorem State.timerTick_index (s : State) : s.timerTick.index = s.index := rfl
@[simp] theorem State.timerTick_stack (s : State) : s.timerTick.stack = s.stack := rfl
@[simp] theorem State.timerTick_dt (s : State) : s.timerTick.dt = countDown s.dt := rfl
@[simp] theorem State.timerTick_st (s : State) : s.timerTick.st = countDown s.st := rfl
@[simp] theorem State.timerTick_fb (s : State) : s.timerTick.fb = s.fb := rfl
@[simp] theorem State.timerTick_drawFlag (s : State) : s.timerTick.drawFlag = s.drawFlag := rfl
@[simp] theorem State.timerTick_keys (s : State) : s.timerTick.keys = s.keys := rfl
@[simp] theorem State.timerTick_romLoaded (s : State) : s.timerTick.romLoaded = s.romLoaded := rfl
@[simp] theorem State.timerTick_fault (s : State) : s.timerTick.fault = s.fault := rfl
@[simp] theorem State.timerTick_draws (s : State) : s.timerTick.draws = s.draws := rfl
@[simp] theorem State.timerTick_build (s : State) : s.timerTick.build = s.build := rfl

/-! ### keySet -/

@[simp] theorem State.keySet_mem (k : Fin 16) (d : Bool) (s : State) : (s.keySet k d).mem = s.mem := rfl
@[simp] theorem State.keySet_v (k : Fin 16) (d : Bool) (s : State) : (s.keySet k d).v = s.v := rfl
@[simp] theorem State.keySet_pc (k : Fin 16) (d : Bool) (s : State) : (s.keySet k d).pc = s.pc := rfl
@[simp] theorem State.keySet_index (k : Fin 16) (d : Bool) (s : State) : (s.keySet k d).index = s.index := rfl
@[simp] theorem State.keySet_stack (k : Fin 16) (d : Bool) (s : State) : (s.keySet k d).stack = s.stack := rfl
@[simp] theorem State.keySet_dt (k : Fin 16) (d : Bool) (s : State) : (s.keySet k d).dt = s.dt := rfl
@[simp] theorem State.keySet_st (k : Fin 16) (d : Bool) (s : State) : (s.keySet k d).st = s.st := rfl
@[simp] theorem State.keySet_fb (k : Fin 16) (d : Bool) (s : State) : (s.keySet k d).fb = s.fb := rfl
@[simp] theorem State.keySet_drawFlag (k : Fin 16) (d : Bool) (s : State) :
    (s.keySet k d).drawFlag = s.drawFlag := rfl
@[simp] theorem State.keySet_keys (k : Fin 16) (d : Bool) (s : State) :
    (s.keySet k d).keys = s.keys.set k.val d := rfl
@[simp] theorem State.keySet_romLoaded (k : Fin 16) (d : Bool) (s : State) :
    (s.keySet k d).romLoaded = s.romLoaded := rfl
@[simp] theorem State.keySet_fault (k : Fin 16) (d : Bool) (s : State) : (s.keySet k d).fault = s.fault := rfl
@[simp] theorem State.keySet_draws (k : Fin 16) (d : Bool) (s : State) : (s.keySet k d).draws = s.draws := rfl
@[simp] theorem State.keySet_build (k : Fin 16) (d : Bool) (s : State) : (s.keySet k d).build = s.build := rfl

/-! ### ackFrame -/

@[simp] theorem State.ackFrame_mem (s : State) : s.ackFrame.mem = s.mem := rfl
@[simp] theorem State.ackFrame_v (s : State) : s.ackFrame.v = s.v := rfl
@[simp] theorem State.ackFrame_pc (s : State) : s.ackFrame.pc = s.pc := rfl
@[simp] theorem State.ackFrame_index (s : State) : s.ackFrame.index = s.index := rfl
@[simp] theorem State.ackFrame_stack (s : State) : s.ackFrame.stack = s.stack := rfl
@[simp] theorem State.ackFrame_dt (s : State) : s.ackFrame.dt = s.dt := rfl
@[simp] theorem State.ackFrame_st (s : State) : s.ackFrame.st = s.st := rfl
@[simp] theorem State.ackFrame_fb (s : State) : s.ackFrame.fb = s.fb := rfl
@[simp] theorem State.ackFrame_drawFlag (s : State) : s.ackFrame.drawFlag = false := rfl
@[simp] theorem State.ackFrame_keys (s : State) : s.ackFrame.keys = s.keys := rfl
@[simp] theorem State.ackFrame_romLoaded (s : State) : s.ackFrame.romLoaded = s.romLoaded := rfl
@[simp] theorem State.ackFrame_fault (s : State) : s.ackFrame.fault = s.fault := rfl
@[simp] theorem State.ackFrame_draws (s : State) : s.ackFrame.draws = s.draws := rfl
@[simp] theorem State.ackFrame_build (s : State) : s.ackFrame.build = s.build := rfl

/-! ### setStack -/

@[simp] theorem State.setStack_mem (l : List Word) (s : State) : (s.setStack l).mem = s.mem := rfl
@[simp] theorem State.setStack_v (l : List Word) (s : State) : (s.setStack l).v = s.v := rfl
@[simp] theorem State.setStack_pc (l : List Word) (s : State) : (s.setStack l).pc = s.pc := rfl
@[simp] theorem State.setStack_index (l : List Word) (s : State) : (s.setStack l).index = s.index := rfl
@[simp] theorem State.setStack_stack (l : List Word) (s : State) : (s.setStack l).stack = l := rfl
@[simp] theorem State.setStack_dt (l : List Word) (s : State) : (s.setStack l).dt = s.dt := rfl
@[simp] theorem State.setStack_st (l : List Word) (s : State) : (s.setStack l).st = s.st := rfl
@[simp] theorem State.setStack_fb (l : List Word) (s : State) : (s.setStack l).fb = s.fb := rfl
@[simp] theorem State.setStack_drawFlag (l : List Word) (s : State) : (s.setStack l).drawFlag = s.drawFlag := rfl
@[simp] theorem State.setStack_keys (l : List Word) (s : State) : (s.setStack l).keys = s.keys := rfl
@[simp] theorem State.setStack_romLoaded (l : List Word) (s : State) : (s.setStack l).romLoaded = s.romLoaded := rfl
@[simp] theorem State.setStack_fault (l : List Word) (s : State) : (s.setStack l).fault = s.fault := rfl
@[simp] theorem State.setStack_draws (l : List Word) (s : State) : (s.setStack l).draws = s.draws := rfl
@[simp] theorem State.setStack_build (l : List Word) (s : State) : (s.setStack l).build = s.build := rfl

/-! ### setDelay -/

@[simp] theorem State.setDelay_mem (b : Byte) (s : State) : (s.setDelay b).mem = s.mem := rfl
@[simp] theorem State.setDelay_v (b : Byte) (s : State) : (s.setDelay b).v = s.v := rfl
@[simp] theorem State.setDelay_pc (b : Byte) (s : State) : (s.setDelay b).pc = s.pc := rfl
@[simp] theorem State.setDelay_index (b : Byte) (s : State) : (s.setDelay b).index = s.index := rfl
@[simp] theorem State.setDelay_stack (b : Byte) (s : State) : (s.setDelay b).stack = s.stack := rfl
@[simp] theorem State.setDelay_dt (b : Byte) (s : State) : (s.setDelay b).dt = b := rfl
@[simp] theorem State.setDelay_st (b : Byte) (s : State) : (s.setDelay b).st = s.st := rfl
@[simp] theorem State.setDelay_fb (b : Byte) (s : State) : (s.setDelay b).fb = s.fb := rfl
@[simp] theorem State.setDelay_drawFlag (b : Byte) (s : State) : (s.setDelay b).drawFlag = s.drawFlag := rfl
@[simp] theorem State.setDelay_keys (b : Byte) (s : State) : (s.setDelay b).keys = s.keys := rfl
@[simp] theorem State.setDelay_romLoaded (b : Byte) (s : State) : (s.setDelay b).romLoaded = s.romLoaded := rfl
@[simp] theorem State.setDelay_fault (b : Byte) (s : State) : (s.setDelay b).fault = s.fault := rfl
@[simp] theorem State.setDelay_draws (b : Byte) (s : State) : (s.setDelay b).draws = s.draws := rfl
@[simp] theorem State.setDelay_build (b : Byte) (s : State) : (s.setDelay b).build = s.build := rfl

/-! ### setSound -/

@[simp] theorem State.setSound_mem (b : Byte) (s : State) : (s.setSound b).mem = s.mem := rfl
@[simp] theorem State.setSound_v (b : Byte) (s : State) : (s.setSound b).v = s.v := rfl
@[simp] theorem State.setSound_pc (b : Byte) (s : State) : (s.setSound b).pc = s.pc := rfl
@[simp] theorem State.setSound_index (b : Byte) (s : State) : (s.setSound b).index = s.index := rfl
@[simp] theorem State.setSound_stack (b : Byte) (s : State) : (s.setSound b).stack = s.stack := rfl
@[simp] theorem State.setSound_dt (b : Byte) (s : State) : (s.setSound b).dt = s.dt := rfl
@[simp] theorem State.setSound_st (b : Byte) (s : State) : (s.setSound b).st = b := rfl
@[simp] theorem State.setSound_fb (b : Byte) (s : State) : (s.setSound b).fb = s.fb := rfl
@[simp] theorem State.setSound_drawFlag (b : Byte) (s : State) : (s.setSound b).drawFlag = s.drawFlag := rfl
@[simp] theorem State.setSound_keys (b : Byte) (s : State) : (s.setSound b).keys = s.keys := rfl
@[simp] theorem State.setSound_romLoaded (b : Byte) (s : State) : (s.setSound b).romLoaded = s.romLoaded := rfl
@[simp] theorem State.setSound_fault (b : Byte) (s : State) : (s.setSound b).fault = s.fault := rfl
@[simp] theorem State.setSound_draws (b : Byte) (s : State) : (s.setSound b).draws = s.draws := rfl
@[simp] theorem State.setSound_build (b : Byte) (s : State) : (s.setSound b).build = s.build := rfl

/-! ### clearScreen -/

@[simp] theorem State.clearScreen_mem (s : State) : s.clearScreen.mem = s.mem := rfl
@[simp] theorem State.clearScreen_v (s : State) : s.clearScreen.v = s.v := rfl
@[simp] theorem State.clearScreen_pc (s : State) : s.clearScreen.pc = s.pc := rfl
@[simp] theorem State.clearScreen_index (s : State) : s.clearScreen.index = s.index := rfl
@[simp] theorem State.clearScreen_stack (s : State) : s.clearScreen.stack = s.stack := rfl
@[simp] theorem State.clearScreen_dt (s : State) : s.clearScreen.dt = s.dt := rfl
@[simp] theorem State.clearScreen_st (s : State) : s.clearScreen.st = s.st := rfl
@[simp] theorem State.clearScreen_fb (s : State) : s.clearScreen.fb = 0#2048 := rfl
@[simp] theorem State.clearScreen_drawFlag (s : State) : s.clearScreen.drawFlag = true := rfl
@[simp] theorem State.clearScreen_keys (s : State) : s.clearScreen.keys = s.keys := rfl
@[simp] theorem State.clearScreen_romLoaded (s : State) : s.clearScreen.romLoaded = s.romLoaded := rfl
@[simp] theorem State.clearScreen_fault (s : State) : s.clearScreen.fault = s.fault := rfl
@[simp] theorem State.clearScreen_draws (s : State) : s.clearScreen.draws = s.draws := rfl
@[simp] theorem State.clearScreen_build (s : State) : s.clearScreen.build = s.build := rfl

/-! ### placeRom -/

@[simp] theorem State.placeRom_mem (rom : List Byte) (s : State) : (s.placeRom rom).mem = s.mem.writeBytes s.build.fontTable programBase rom := rfl
@[simp] theorem State.placeRom_v (rom : List Byte) (s : State) : (s.placeRom rom).v = s.v := rfl
@[simp] theorem State.placeRom_pc (rom : List Byte) (s : State) : (s.placeRom rom).pc = s.pc := rfl
@[simp] theorem State.placeRom_index (rom : List Byte) (s : State) : (s.placeRom rom).index = s.index := rfl
@[simp] theorem State.placeRom_stack (rom : List Byte) (s : State) : (s.placeRom rom).stack = s.stack := rfl
@[simp] theorem State.placeRom_dt (rom : List Byte) (s : State) : (s.placeRom rom).dt = s.dt := rfl
@[simp] theorem State.placeRom_st (rom : List Byte) (s : State) : (s.placeRom rom).st = s.st := rfl
@[simp] theorem State.placeRom_fb (rom : List Byte) (s : State) : (s.placeRom rom).fb = s.fb := rfl
@[simp] theorem State.placeRom_drawFlag (rom : List Byte) (s : State) : (s.placeRom rom).drawFlag = s.drawFlag := rfl
@[simp] theorem State.placeRom_keys (rom : List Byte) (s : State) : (s.placeRom rom).keys = s.keys := rfl
@[simp] theorem State.placeRom_romLoaded (rom : List Byte) (s : State) : (s.placeRom rom).romLoaded = true := rfl
@[simp] theorem State.placeRom_fault (rom : List Byte) (s : State) : (s.placeRom rom).fault = s.fault := rfl
@[simp] theorem State.placeRom_draws (rom : List Byte) (s : State) : (s.placeRom rom).draws = s.draws := rfl
@[simp] theorem State.placeRom_build (rom : List Byte) (s : State) : (s.placeRom rom).build = s.build := rfl

/-! ### Reading a register after an update -/

theorem State.reg_of_v {s t : State} (h : t.v = s.v) (y : Reg) : t.reg y = s.reg y := by
  simp only [State.reg, h]

@[simp] theorem State.setReg_reg (x y : Reg) (b : Byte) (s : State) :
    (s.setReg x b).reg y = if y = x then b else s.reg y := by
  simp only [State.reg, State.setReg_v, Vector.getElem_set, Fin.ext_iff, eq_comm]

@[simp] theorem State.setRegThenFlag_reg (x y : Reg) (b f : Byte) (s : State) :
    (s.setRegThenFlag x b f).reg y = if y = regF then f else if y = x then b else s.reg y := by
  simp only [State.setRegThenFlag, State.setReg_reg]

@[simp] theorem State.setLogicResult_reg (x y : Reg) (b : Byte) (s : State) :
    (s.setLogicResult x b).reg y =
      if y = regF ∧ s.build.logicResetsVf = true then 0#8 else if y = x then b else s.reg y := by
  unfold State.setLogicResult
  split <;> simp_all

@[simp] theorem State.loadRegBlock_reg (x y : Reg) (s : State) :
    (s.loadRegBlock x).reg y = if y ≤ x then s.readByte (s.effAddr y.val) else s.reg y := by
  simp [State.reg, State.loadRegBlock]

@[simp] theorem State.showRaster_reg (r : Raster) (y : Reg) (s : State) :
    (s.showRaster r).reg y = if y = regF then flagByte r.col else s.reg y := by
  simp only [State.showRaster, State.setReg_reg]
  rfl

@[simp] theorem State.afterFetch_reg (s : State) (y : Reg) : s.afterFetch.reg y = s.reg y := rfl
@[simp] theorem State.jumpTo_reg (w : Word) (s : State) (y : Reg) : (s.jumpTo w).reg y = s.reg y := rfl
@[simp] theorem State.skipIf_reg (c : Bool) (s : State) (y : Reg) : (s.skipIf c).reg y = s.reg y := State.reg_of_v (by simp) y
@[simp] theorem State.raise_reg (k : FaultKind) (w : Option Word) (s : State) (y : Reg) : (s.raise k w).reg y = s.reg y := rfl
@[simp] theorem State.storeAtIndex_reg (bs : List Byte) (s : State) (y : Reg) : (s.storeAtIndex bs).reg y = s.reg y := rfl
@[simp] theorem State.bumpIndex_reg (x : Reg) (s : State) (y : Reg) : (s.bumpIndex x).reg y = s.reg y := State.reg_of_v (by simp) y
@[simp] theorem State.setIndex_reg (w : Word) (s : State) (y : Reg) : (s.setIndex w).reg y = s.reg y := rfl
@[simp] theorem State.countDraw_reg (s : State) (y : Reg) : s.countDraw.reg y = s.reg y := rfl
@[simp] theorem State.timerTick_reg (s : State) (y : Reg) : s.timerTick.reg y = s.reg y := rfl
@[simp] theorem State.keySet_reg (k : Fin 16) (d : Bool) (s : State) (y : Reg) : (s.keySet k d).reg y = s.reg y := rfl
@[simp] theorem State.ackFrame_reg (s : State) (y : Reg) : s.ackFrame.reg y = s.reg y := rfl
@[simp] theorem State.setStack_reg (l : List Word) (s : State) (y : Reg) : (s.setStack l).reg y = s.reg y := rfl
@[simp] theorem State.setDelay_reg (b : Byte) (s : State) (y : Reg) : (s.setDelay b).reg y = s.reg y := rfl
@[simp] theorem State.setSound_reg (b : Byte) (s : State) (y : Reg) : (s.setSound b).reg y = s.reg y := rfl
@[simp] theorem State.clearScreen_reg (s : State) (y : Reg) : s.clearScreen.reg y = s.reg y := rfl
@[simp] theorem State.placeRom_reg (rom : List Byte) (s : State) (y : Reg) : (s.placeRom rom).reg y = s.reg y := rfl

/-! ### Reading a byte after an update that stores nothing -/

@[simp] theorem State.setReg_readByte (x : Reg) (b : Byte) (s : State) (a : Nat) :
    (s.setReg x b).readByte a = s.readByte a := by simp only [State.readByte, State.setReg_mem, State.setReg_build]
@[simp] theorem State.setRegThenFlag_readByte (x : Reg) (b f : Byte) (s : State) (a : Nat) :
    (s.setRegThenFlag x b f).readByte a = s.readByte a := by simp only [State.readByte, State.setRegThenFlag_mem, State.setRegThenFlag_build]
@[simp] theorem State.setLogicResult_readByte (x : Reg) (b : Byte) (s : State) (a : Nat) :
    (s.setLogicResult x b).readByte a = s.readByte a := by simp only [State.readByte, State.setLogicResult_mem, State.setLogicResult_build]
@[simp] theorem State.afterFetch_readByte (s : State) (a : Nat) :
    s.afterFetch.readByte a = s.readByte a := by simp only [State.readByte, State.afterFetch_mem, State.afterFetch_build]
@[simp] theorem State.jumpTo_readByte (w : Word) (s : State) (a : Nat) :
    (s.jumpTo w).readByte a = s.readByte a := by simp only [State.readByte, State.jumpTo_mem, State.jumpTo_build]
@[simp] theorem State.skipIf_readByte (c : Bool) (s : State) (a : Nat) :
    (s.skipIf c).readByte a = s.readByte a := by simp only [State.readByte, State.skipIf_mem, State.skipIf_build]
@[simp] theorem State.raise_readByte (k : FaultKind) (w : Option Word) (s : State) (a : Nat) :
    (s.raise k w).readByte a = s.readByte a := by simp only [State.readByte, State.raise_mem, State.raise_build]
@[simp] theorem State.bumpIndex_readByte (x : Reg) (s : State) (a : Nat) :
    (s.bumpIndex x).readByte a = s.readByte a := by simp only [State.readByte, State.bumpIndex_mem, State.bumpIndex_build]
@[simp] theorem State.setIndex_readByte (w : Word) (s : State) (a : Nat) :
    (s.setIndex w).readByte a = s.readByte a := by simp only [State.readByte, State.setIndex_mem, State.setIndex_build]
@[simp] theorem State.loadRegBlock_readByte (x : Reg) (s : State) (a : Nat) :
    (s.loadRegBlock x).readByte a = s.readByte a := by simp only [State.readByte, State.loadRegBlock_mem, State.loadRegBlock_build]
@[simp] theorem State.showRaster_readByte (r : Raster) (s : State) (a : Nat) :
    (s.showRaster r).readByte a = s.readByte a := by simp only [State.readByte, State.showRaster_mem, State.showRaster_build]
@[simp] theorem State.countDraw_readByte (s : State) (a : Nat) :
    s.countDraw.readByte a = s.readByte a := by simp only [State.readByte, State.countDraw_mem, State.countDraw_build]
@[simp] theorem State.timerTick_readByte (s : State) (a : Nat) :
    s.timerTick.readByte a = s.readByte a := by simp only [State.readByte, State.timerTick_mem, State.timerTick_build]
@[simp] theorem State.keySet_readByte (k : Fin 16) (d : Bool) (s : State) (a : Nat) :
    (s.keySet k d).readByte a = s.readByte a := by simp only [State.readByte, State.keySet_mem, State.keySet_build]
@[simp] theorem State.ackFrame_readByte (s : State) (a : Nat) :
    s.ackFrame.readByte a = s.readByte a := by simp only [State.readByte, State.ackFrame_mem, State.ackFrame_build]
@[simp] theorem State.setStack_readByte (l : List Word) (s : State) (a : Nat) :
    (s.setStack l).readByte a = s.readByte a := rfl
@[simp] theorem State.setDelay_readByte (b : Byte) (s : State) (a : Nat) :
    (s.setDelay b).readByte a = s.readByte a := rfl
@[simp] theorem State.setSound_readByte (b : Byte) (s : State) (a : Nat) :
    (s.setSound b).readByte a = s.readByte a := rfl
@[simp] theorem State.clearScreen_readByte (s : State) (a : Nat) :
    s.clearScreen.readByte a = s.readByte a := rfl

end Sys2Proof.Machine
end

