-- ==== Sys2Proof/Laws/Ops.lean ====
section
/-! SUPPORT. Sys2Proof/Laws/Ops.lean: one lemma for each shared operation, saying everything it can do, so that a proof
cites it and does not unfold the operation. -/

namespace Sys2Proof.Machine

/-! ### Numbers -/

@[simp] theorem zextByte_toNat (b : Byte) : (zextByte b).toNat = b.toNat := by
  have := b.isLt
  simp [zextByte]
  omega

@[simp] theorem zextAddr_toNat (nnn : Addr12) : (zextAddr nnn).toNat = nnn.toNat := by
  have := nnn.isLt
  simp [zextAddr]
  omega

@[simp] theorem flagByte_toNat (c : Bool) : (flagByte c).toNat = if c then 1 else 0 := by cases c <;> rfl

@[simp] theorem glyphAddress_toNat (d : Fin 16) : (glyphAddress d).toNat = 5 * d.val := by
  have := d.isLt
  simp [glyphAddress]
  omega

@[simp] theorem keyByte_toNat (k : Fin 16) : (keyByte k).toNat = k.val := by
  have := k.isLt
  simp [keyByte]
  omega

theorem countDown_toNat (t : Byte) : (countDown t).toNat = t.toNat - 1 := by
  have := t.isLt
  unfold countDown
  split
  · simp_all
  · rename_i h
    have h0 : t.toNat ≠ 0 := fun e => h (BitVec.eq_of_toNat_eq e)
    rw [BitVec.toNat_sub]
    simp
    omega

/-! ### Digits and keys -/

theorem digitOf_eq_some {b : Byte} {k : Fin 16} : digitOf b = some k ↔ b.toNat = k.val := by
  unfold digitOf
  split
  · simp [Fin.ext_iff]
  · have := k.isLt
    simp
    omega

theorem digitOf_eq_none {b : Byte} : digitOf b = none ↔ b.toNat > 0xF := by
  unfold digitOf
  split <;> simp <;> omega

theorem lowestKeyDown_eq_none {s : State} : s.lowestKeyDown = none ↔ ∀ k : Fin 16, s.keys[k.val] = false := by
  simp [State.lowestKeyDown, List.find?_eq_none, State.keyDown]

theorem lowestKeyDown_eq_some {s : State} {k : Fin 16} :
    s.lowestKeyDown = some k ↔ s.keys[k.val] = true ∧ ∀ j : Fin 16, j < k → s.keys[j.val] = false := by
  rw [State.lowestKeyDown, List.find?_eq_some_iff_getElem]
  simp only [State.keyDown, List.getElem_finRange, List.length_finRange, Bool.not_eq_true', Fin.cast_mk]
  refine and_congr_right fun _ => ⟨?_, ?_⟩
  · rintro ⟨i, hi, rfl, h⟩ j hj
    exact h j.val hj
  · exact fun h => ⟨k.val, k.isLt, rfl, fun j hj => h (Fin.mk j (by omega)) hj⟩

/-! ### The call stack -/

theorem push_eq_some {s t : State} {a : Word} :
    s.push a = some t ↔ s.stack.length < s.build.stackDepth ∧ t = s.setStack (a :: s.stack) := by
  unfold State.push
  split <;> simp_all [eq_comm]

theorem push_eq_none {s : State} {a : Word} : s.push a = none ↔ s.build.stackDepth ≤ s.stack.length := by
  unfold State.push
  split <;> simp_all

theorem pop_eq_some {s t : State} {a : Word} :
    s.pop = some (a, t) ↔ ∃ rest, s.stack = a :: rest ∧ t = s.setStack rest := by
  unfold State.pop
  split <;> simp_all [eq_comm]

theorem pop_eq_none {s : State} : s.pop = none ↔ s.stack = [] := by
  unfold State.pop
  split <;> simp_all

/-! ### Checks of addresses -/

@[simp] theorem addressValid_iff {a : Nat} : addressValid a = true ↔ a < 4096 := decide_eq_true_iff

theorem boundsCheck_eq_none {s : State} {n : Nat} :
    s.boundsCheck n = none ↔ ∀ k, k < n → s.index.toNat + k < 4096 := by
  simp [State.boundsCheck, State.effAddr]

theorem boundsCheck_eq_some {s : State} {n : Nat} {kind : FaultKind} :
    s.boundsCheck n = some kind ↔ kind = .dataOutOfBounds ∧ ¬ ∀ k, k < n → s.index.toNat + k < 4096 := by
  rw [← boundsCheck_eq_none]
  unfold State.boundsCheck
  split
  · simp
  · simp [@eq_comm _ FaultKind.dataOutOfBounds kind]

/-- Where LOW_WRITE_POLICY's protected range ends (20_memory.md R87). -/
theorem writeProtected_iff {p : LowWritePolicy} {a : Nat} :
    writeProtected p a = true ↔ a < (if p = .fault then 0x200 else 0x050) := by
  cases p <;> simp [writeProtected, programBase, fontSize]

theorem storeCheck_eq_none {s : State} {n : Nat} :
    s.storeCheck n = none ↔ (∀ k, k < n → s.index.toNat + k < 4096) ∧
      ∀ k, k < n → writeProtected s.build.lowWritePolicy (s.effAddr k) = false := by
  rw [← boundsCheck_eq_none]
  unfold State.storeCheck
  split
  · simp_all
  · simp_all

theorem storeCheck_eq_some {s : State} {n : Nat} {kind : FaultKind} :
    s.storeCheck n = some kind ↔
      (kind = .dataOutOfBounds ∧ ¬ ∀ k, k < n → s.index.toNat + k < 4096) ∨
      (kind = .protectedWrite ∧ (∀ k, k < n → s.index.toNat + k < 4096) ∧
        ∃ k, k < n ∧ writeProtected s.build.lowWritePolicy (s.effAddr k) = true) := by
  rw [← boundsCheck_eq_none]
  unfold State.storeCheck
  cases h : s.boundsCheck n with
  | some k =>
    obtain rfl := (boundsCheck_eq_some.1 h).1
    simp [@eq_comm _ FaultKind.dataOutOfBounds kind]
  | none => simp [@eq_comm _ FaultKind.protectedWrite kind, and_comm]

/-- One address of the block outside memory fails the bounds check. -/
theorem boundsCheck_outside {s : State} {n k : Nat} (hk : k < n) (h : s.index.toNat + k ≥ 4096) :
    s.boundsCheck n = some .dataOutOfBounds :=
  boundsCheck_eq_some.2 ⟨rfl, fun hin => absurd (hin k hk) (by omega)⟩

/-- One address of the block outside memory fails the checks of a store, whatever the write policy. -/
theorem storeCheck_outside {s : State} {n k : Nat} (hk : k < n) (h : s.index.toNat + k ≥ 4096) :
    s.storeCheck n = some .dataOutOfBounds :=
  storeCheck_eq_some.2 (.inl ⟨rfl, fun hin => absurd (hin k hk) (by omega)⟩)

/-! ### Faults -/

theorem faultOr_none {i : Instr} {s effect : State} : faultOr i s none effect = .next effect := rfl

theorem faultOr_some {i : Instr} {s effect : State} {kind : FaultKind} :
    faultOr i s (some kind) effect = raiseIn i kind s := rfl

theorem raiseIn_eq (i : Instr) (kind : FaultKind) (s : State) :
    raiseIn i kind s = .next (s.raise kind (some (encode i))) := rfl

/-! ### Register blocks -/

theorem regsUpTo_getElem? (x k : Reg) (h : k ≤ x) : (regsUpTo x)[k.val]? = some k := by
  revert x k
  decide +kernel

@[simp] theorem length_regsUpTo (x : Reg) : (regsUpTo x).length = x.val + 1 := by
  revert x
  decide +kernel

@[simp] theorem length_regBlock (s : State) (x : Reg) : (s.regBlock x).length = x.val + 1 := by
  simp [State.regBlock]

theorem regBlock_getElem? (s : State) (x k : Reg) (h : k ≤ x) : (s.regBlock x)[k.val]? = some (s.reg k) := by
  simp [State.regBlock, regsUpTo_getElem? x k h]

@[simp] theorem length_loadAtIndex (s : State) (n : Nat) : (s.loadAtIndex n).length = n := by
  simp [State.loadAtIndex]

theorem loadAtIndex_getElem (s : State) (n k : Nat) (h : k < (s.loadAtIndex n).length) :
    (s.loadAtIndex n)[k] = s.readByte (s.index.toNat + k) := by
  simp [State.loadAtIndex, State.effAddr]

end Sys2Proof.Machine
end

