-- ==== Sys2Proof/Laws/Display.lean ====
section
/-! SUPPORT. Sys2Proof/Laws/Display.lean: the sprite loop as a list of hit pixels, each hit at most once, and what it does
to a pixel and to the collision flag. -/

namespace Sys2Proof.Machine

/-- A pixel of the screen. -/
def OnScreen (p : Nat × Nat) : Prop := p.1 < 64 ∧ p.2 < 32

theorem pixel_flip (fb : Framebuffer) {x y px py : Nat} (h : OnScreen (x, y)) (hp : OnScreen (px, py)) :
    (fb.flip x y).pixel px py = (fb.pixel px py ^^ decide ((px, py) = (x, y))) := by
  obtain ⟨hx, hy⟩ := h
  obtain ⟨hpx, hpy⟩ := hp
  simp only at hx hy hpx hpy
  simp only [Framebuffer.flip, Framebuffer.pixel, pixelIndex, BitVec.getLsbD_xor, BitVec.getLsbD_shiftLeft,
    BitVec.getLsbD_one, Prod.mk.injEq]
  congr 1
  rw [Bool.eq_iff_iff]
  simp [screenW]
  omega

/-- One hit: the pixel is flipped, and collides when it was on. -/
def hit (r : Raster) (p : Nat × Nat) : Raster := { fb := r.fb.flip p.1 p.2, col := r.col || r.fb.pixel p.1 p.2 }

/-- The pixels that one sprite row hits. -/
def rowHits (wrap : Bool) (x0 y : Nat) (b : Byte) : List (Nat × Nat) :=
  (List.range 8).filterMap (fun c => if b.getLsbD (7 - c) = true then place wrap (x0 + c) y else none)

/-- The pixels that a sprite hits, row by row. -/
def spriteHits (wrap : Bool) (x0 y : Nat) : List Byte → List (Nat × Nat)
  | [] => []
  | b :: rest => rowHits wrap x0 y b ++ spriteHits wrap x0 (y + 1) rest

theorem drawRow_eq_hits (wrap : Bool) (x0 y : Nat) (b : Byte) (r : Raster) :
    drawRow wrap x0 y b r = (rowHits wrap x0 y b).foldl hit r := by
  rw [drawRow, rowHits, List.foldl_filterMap]
  congr 1
  funext r c
  unfold drawBit
  cases b.getLsbD (7 - c) <;> cases place wrap (x0 + c) y <;> rfl

theorem drawRows_eq_hits (wrap : Bool) (x0 y : Nat) (bs : List Byte) (r : Raster) :
    drawRows wrap x0 y bs r = (spriteHits wrap x0 y bs).foldl hit r := by
  induction bs generalizing y r with
  | nil => rfl
  | cons b bs ih => rw [drawRows, ih, drawRow_eq_hits, spriteHits, List.foldl_append]

/-- Distinct hits on the screen flip exactly their pixels. -/
theorem pixel_foldl_hit (hs : List (Nat × Nat)) (r : Raster) (hn : hs.Nodup) (hon : ∀ p ∈ hs, OnScreen p)
    {px py : Nat} (hp : OnScreen (px, py)) :
    (hs.foldl hit r).fb.pixel px py = (r.fb.pixel px py ^^ decide ((px, py) ∈ hs)) := by
  induction hs generalizing r with
  | nil => simp
  | cons h hs ih =>
    have hn' := List.nodup_cons.1 hn
    rw [List.foldl_cons, ih _ hn'.2 (fun p hm => hon p (List.mem_cons_of_mem h hm)), hit,
      pixel_flip _ (hon h List.mem_cons_self) hp, Bool.xor_assoc]
    congr 1
    by_cases he : (px, py) = h
    · subst he
      simp [hn'.1]
    · simp [he, List.mem_cons]

/-- Distinct hits on the screen collide where the framebuffer before them was on. -/
theorem col_foldl_hit (hs : List (Nat × Nat)) (r : Raster) (hn : hs.Nodup) (hon : ∀ p ∈ hs, OnScreen p) :
    (hs.foldl hit r).col = true ↔ r.col = true ∨ ∃ p ∈ hs, r.fb.pixel p.1 p.2 = true := by
  induction hs generalizing r with
  | nil => simp
  | cons h hs ih =>
    have hn' := List.nodup_cons.1 hn
    have hh := hon h List.mem_cons_self
    rw [List.foldl_cons, ih _ hn'.2 (fun p hm => hon p (List.mem_cons_of_mem h hm))]
    have hpix : ∀ p ∈ hs, (hit r h).fb.pixel p.1 p.2 = r.fb.pixel p.1 p.2 := by
      intro p hm
      have hne : p ≠ h := fun e => hn'.1 (e ▸ hm)
      have := pixel_flip r.fb hh (hon p (List.mem_cons_of_mem h hm))
      simpa [hit, hne] using this
    simp only [List.mem_cons, exists_eq_or_imp]
    rw [← or_assoc]
    refine or_congr (by simp [hit]) ⟨?_, ?_⟩
    · rintro ⟨p, hm, h1⟩
      exact ⟨p, hm, hpix p hm ▸ h1⟩
    · rintro ⟨p, hm, h1⟩
      exact ⟨p, hm, (hpix p hm).symm ▸ h1⟩

theorem place_eq_some {wrap : Bool} {x y : Nat} {p : Nat × Nat} :
    place wrap x y = some p ↔ OnScreen p ∧
      (if wrap then p.1 = x % 64 ∧ p.2 = y % 32 else p.1 = x ∧ p.2 = y) := by
  obtain ⟨px, py⟩ := p
  cases wrap
  · simp only [place, OnScreen, screenW, screenH]
    split <;> simp_all
    omega
  · simp only [place, OnScreen, screenW, screenH]
    simp
    omega

theorem mem_rowHits {wrap : Bool} {x0 y : Nat} {b : Byte} {p : Nat × Nat} :
    p ∈ rowHits wrap x0 y b ↔ ∃ c, c < 8 ∧ b.getLsbD (7 - c) = true ∧ place wrap (x0 + c) y = some p := by
  simp [rowHits, List.mem_filterMap]

theorem mem_spriteHits {wrap : Bool} {x0 y : Nat} {bs : List Byte} {p : Nat × Nat} :
    p ∈ spriteHits wrap x0 y bs ↔
      ∃ r c, ∃ h : r < bs.length, c < 8 ∧ bs[r].getLsbD (7 - c) = true ∧ place wrap (x0 + c) (y + r) = some p := by
  induction bs generalizing y with
  | nil => simp [spriteHits]
  | cons b bs ih =>
    rw [spriteHits, List.mem_append, mem_rowHits, ih]
    constructor
    · rintro (⟨c, hc, hb, hp⟩ | ⟨r, c, hr, hc, hb, hp⟩)
      · exact ⟨0, c, by simp, hc, hb, hp⟩
      · exact ⟨r + 1, c, by simp [hr], hc, hb, by rw [← hp]; congr 1; omega⟩
    · rintro ⟨r, c, hr, hc, hb, hp⟩
      cases r with
      | zero => exact .inl ⟨c, hc, hb, hp⟩
      | succ r => exact .inr ⟨r, c, by simpa using hr, hc, hb, by rw [← hp]; congr 1; omega⟩

theorem onScreen_spriteHits {wrap : Bool} {x0 y : Nat} {bs : List Byte} :
    ∀ p ∈ spriteHits wrap x0 y bs, OnScreen p := by
  intro p hp
  obtain ⟨r, c, hr, hc, hb, h⟩ := mem_spriteHits.1 hp
  exact (place_eq_some.1 h).1

/-- Two places of a sprite that fall on one pixel are one place: fewer than 32 rows, 8 columns (45_display.md R214). -/
theorem place_injective {wrap : Bool} {x0 y0 c c' r r' : Nat} {p : Nat × Nat} (hc : c < 8) (hc' : c' < 8)
    (hr : r < 32) (hr' : r' < 32) (h : place wrap (x0 + c) (y0 + r) = some p)
    (h' : place wrap (x0 + c') (y0 + r') = some p) : c = c' ∧ r = r' := by
  have h1 := (place_eq_some.1 h).2
  have h2 := (place_eq_some.1 h').2
  cases wrap <;> simp at h1 h2 <;> omega

theorem nodup_rowHits (wrap : Bool) (x0 y : Nat) (b : Byte) : (rowHits wrap x0 y b).Nodup := by
  rw [List.Nodup, rowHits, List.pairwise_filterMap]
  refine (List.nodup_range (n := 8)).imp_of_mem ?_
  intro c c' hc hc' hne p hp q hq hpq
  rw [List.mem_range] at hc hc'
  have h1 := (Option.ite_none_right_eq_some.1 hp).2
  have h2 := (Option.ite_none_right_eq_some.1 hq).2
  exact hne (place_injective (r := 0) (r' := 0) hc hc' (by omega) (by omega) h1 (hpq ▸ h2)).1

theorem nodup_spriteHits (wrap : Bool) (x0 y : Nat) (bs : List Byte) (hlen : bs.length ≤ 32) :
    (spriteHits wrap x0 y bs).Nodup := by
  induction bs generalizing y with
  | nil => exact List.nodup_nil
  | cons b bs ih =>
    rw [List.length_cons] at hlen
    refine List.nodup_append'.2 ⟨nodup_rowHits wrap x0 y b, ih (y + 1) (by omega), ?_⟩
    intro p hp hq
    obtain ⟨c, hc, -, h⟩ := mem_rowHits.1 hp
    obtain ⟨r, c', hr, hc', -, h'⟩ := mem_spriteHits.1 hq
    rw [show y + 1 + r = y + (r + 1) by omega] at h'
    have := place_injective hc hc' (r := 0) (by omega) (by omega) h h'
    omega

/-- What DXYN's raster does to a pixel of the screen. -/
theorem pixel_drawSprite {wrap : Bool} {x0 y0 : Nat} {bs : List Byte} {fb : Framebuffer} {px py : Nat}
    (hlen : bs.length ≤ 32) (hp : OnScreen (px, py)) :
    (drawSprite wrap x0 y0 bs fb).fb.pixel px py =
      (fb.pixel px py ^^ decide ((px, py) ∈ spriteHits wrap x0 y0 bs)) := by
  rw [drawSprite, drawRows_eq_hits]
  exact pixel_foldl_hit _ _ (nodup_spriteHits wrap x0 y0 bs hlen) onScreen_spriteHits hp

/-- When DXYN's raster reports a collision. -/
theorem col_drawSprite {wrap : Bool} {x0 y0 : Nat} {bs : List Byte} {fb : Framebuffer} (hlen : bs.length ≤ 32) :
    (drawSprite wrap x0 y0 bs fb).col = true ↔
      ∃ p ∈ spriteHits wrap x0 y0 bs, fb.pixel p.1 p.2 = true := by
  rw [drawSprite, drawRows_eq_hits, col_foldl_hit _ _ (nodup_spriteHits wrap x0 y0 bs hlen) onScreen_spriteHits]
  simp

/-- Two framebuffers with the same pixels are equal. -/
theorem framebuffer_ext {fb fb' : Framebuffer}
    (h : ∀ px py, px < 64 → py < 32 → fb.pixel px py = fb'.pixel px py) : fb = fb' := by
  apply BitVec.eq_of_getLsbD_eq
  intro k hk
  have := h (k % 64) (k / 64) (by omega) (by omega)
  simpa [Framebuffer.pixel, pixelIndex, Nat.div_add_mod', show k / 64 * 64 + k % 64 = k by omega] using this

end Sys2Proof.Machine
end

