-- ==== Sys2Proof/Laws/PerInstr.lean ====
section
/-! SUPPORT. Sys2Proof/Laws/PerInstr.lean: the family RowMatch, one lemma per instruction: every term of Instr is well
formed, and the encoded word selects the instruction's own row of the opcode map (30_encoding.md R107). -/

namespace Sys2Proof.Laws.RowMatch

/-- The instruction is well formed and its word selects its row of R107. -/
def Statement (i : Instr) : Prop := i.wellFormed = true ∧ selectsRow (encode i) i.row

@[simp] theorem and_ones_nibble (f : BitVec 4) : f &&& 15#4 = f := BitVec.and_allOnes

@[simp] theorem and_ones_byte (f : Byte) : f &&& 255#8 = f := BitVec.and_allOnes

theorem masked_packNNN (op : BitVec 4) (nnn : Addr12) : packNNN op nnn &&& 0xF000#16 = op ++ 0x000#12 := by
  rw [show (0xF000#16 : Word) = 0xF#4 ++ 0x000#12 from rfl, packNNN, BitVec.and_append]
  simp

theorem masked_packXNN (op : BitVec 4) (x : Reg) (nn : Byte) :
    packXNN op x nn &&& 0xF000#16 = op ++ 0x0#4 ++ 0x00#8 := by
  rw [show (0xF000#16 : Word) = 0xF#4 ++ 0x0#4 ++ 0x00#8 from rfl, packXNN, BitVec.and_append, BitVec.and_append]
  simp

theorem masked_packXNN_low (op : BitVec 4) (x : Reg) (nn : Byte) :
    packXNN op x nn &&& 0xF0FF#16 = op ++ 0x0#4 ++ nn := by
  rw [show (0xF0FF#16 : Word) = 0xF#4 ++ 0x0#4 ++ 0xFF#8 from rfl, packXNN, BitVec.and_append, BitVec.and_append]
  simp

theorem masked_packXY (op : BitVec 4) (x y : Reg) (fn : BitVec 4) :
    packXY op x y fn &&& 0xF00F#16 = op ++ 0x0#4 ++ 0x0#4 ++ fn := by
  rw [show (0xF00F#16 : Word) = 0xF#4 ++ 0x0#4 ++ 0x0#4 ++ 0xF#4 from rfl, packXY, BitVec.and_append,
    BitVec.and_append, BitVec.and_append]
  simp

theorem masked_packXY_high (op : BitVec 4) (x y : Reg) (fn : BitVec 4) :
    packXY op x y fn &&& 0xF000#16 = op ++ 0x0#4 ++ 0x0#4 ++ 0x0#4 := by
  rw [show (0xF000#16 : Word) = 0xF#4 ++ 0x0#4 ++ 0x0#4 ++ 0x0#4 from rfl, packXY, BitVec.and_append,
    BitVec.and_append, BitVec.and_append]
  simp

theorem cls : Statement (.cls) :=
  ⟨rfl, rfl⟩

theorem ret : Statement (.ret) :=
  ⟨rfl, rfl⟩

theorem jp (nnn : Addr12) : Statement (.jp nnn) :=
  ⟨by simp [Instr.wellFormed, addrInRange, nnn.isLt], masked_packNNN _ nnn⟩

theorem call (nnn : Addr12) : Statement (.call nnn) :=
  ⟨by simp [Instr.wellFormed, addrInRange, nnn.isLt], masked_packNNN _ nnn⟩

theorem seImm (x : Reg) (nn : Byte) : Statement (.seImm x nn) :=
  ⟨by simp [Instr.wellFormed, regInRange, byteInRange, nn.isLt], masked_packXNN _ x nn⟩

theorem sneImm (x : Reg) (nn : Byte) : Statement (.sneImm x nn) :=
  ⟨by simp [Instr.wellFormed, regInRange, byteInRange, nn.isLt], masked_packXNN _ x nn⟩

theorem seReg (x y : Reg) : Statement (.seReg x y) :=
  ⟨by simp [Instr.wellFormed, regInRange], masked_packXY _ x y _⟩

theorem ldImm (x : Reg) (nn : Byte) : Statement (.ldImm x nn) :=
  ⟨by simp [Instr.wellFormed, regInRange, byteInRange, nn.isLt], masked_packXNN _ x nn⟩

theorem addImm (x : Reg) (nn : Byte) : Statement (.addImm x nn) :=
  ⟨by simp [Instr.wellFormed, regInRange, byteInRange, nn.isLt], masked_packXNN _ x nn⟩

theorem ldReg (x y : Reg) : Statement (.ldReg x y) :=
  ⟨by simp [Instr.wellFormed, regInRange], masked_packXY _ x y _⟩

theorem orReg (x y : Reg) : Statement (.orReg x y) :=
  ⟨by simp [Instr.wellFormed, regInRange], masked_packXY _ x y _⟩

theorem andReg (x y : Reg) : Statement (.andReg x y) :=
  ⟨by simp [Instr.wellFormed, regInRange], masked_packXY _ x y _⟩

theorem xorReg (x y : Reg) : Statement (.xorReg x y) :=
  ⟨by simp [Instr.wellFormed, regInRange], masked_packXY _ x y _⟩

theorem addReg (x y : Reg) : Statement (.addReg x y) :=
  ⟨by simp [Instr.wellFormed, regInRange], masked_packXY _ x y _⟩

theorem sub (x y : Reg) : Statement (.sub x y) :=
  ⟨by simp [Instr.wellFormed, regInRange], masked_packXY _ x y _⟩

theorem shr (x y : Reg) : Statement (.shr x y) :=
  ⟨by simp [Instr.wellFormed, regInRange], masked_packXY _ x y _⟩

theorem subn (x y : Reg) : Statement (.subn x y) :=
  ⟨by simp [Instr.wellFormed, regInRange], masked_packXY _ x y _⟩

theorem shl (x y : Reg) : Statement (.shl x y) :=
  ⟨by simp [Instr.wellFormed, regInRange], masked_packXY _ x y _⟩

theorem sneReg (x y : Reg) : Statement (.sneReg x y) :=
  ⟨by simp [Instr.wellFormed, regInRange], masked_packXY _ x y _⟩

theorem ldI (nnn : Addr12) : Statement (.ldI nnn) :=
  ⟨by simp [Instr.wellFormed, addrInRange, nnn.isLt], masked_packNNN _ nnn⟩

theorem jpV0 (nnn : Addr12) : Statement (.jpV0 nnn) :=
  ⟨by simp [Instr.wellFormed, addrInRange, nnn.isLt], masked_packNNN _ nnn⟩

theorem rnd (x : Reg) (nn : Byte) : Statement (.rnd x nn) :=
  ⟨by simp [Instr.wellFormed, regInRange, byteInRange, nn.isLt], masked_packXNN _ x nn⟩

theorem drw (x y : Reg) (n : Fin 16) : Statement (.drw x y n) :=
  ⟨by simp [Instr.wellFormed, regInRange, rowsInRange], masked_packXY_high _ x y _⟩

theorem skp (x : Reg) : Statement (.skp x) :=
  ⟨by simp [Instr.wellFormed, regInRange], masked_packXNN_low _ x _⟩

theorem sknp (x : Reg) : Statement (.sknp x) :=
  ⟨by simp [Instr.wellFormed, regInRange], masked_packXNN_low _ x _⟩

theorem ldVxDt (x : Reg) : Statement (.ldVxDt x) :=
  ⟨by simp [Instr.wellFormed, regInRange], masked_packXNN_low _ x _⟩

theorem ldVxK (x : Reg) : Statement (.ldVxK x) :=
  ⟨by simp [Instr.wellFormed, regInRange], masked_packXNN_low _ x _⟩

theorem ldDtVx (x : Reg) : Statement (.ldDtVx x) :=
  ⟨by simp [Instr.wellFormed, regInRange], masked_packXNN_low _ x _⟩

theorem ldStVx (x : Reg) : Statement (.ldStVx x) :=
  ⟨by simp [Instr.wellFormed, regInRange], masked_packXNN_low _ x _⟩

theorem addIVx (x : Reg) : Statement (.addIVx x) :=
  ⟨by simp [Instr.wellFormed, regInRange], masked_packXNN_low _ x _⟩

theorem ldFVx (x : Reg) : Statement (.ldFVx x) :=
  ⟨by simp [Instr.wellFormed, regInRange], masked_packXNN_low _ x _⟩

theorem ldBVx (x : Reg) : Statement (.ldBVx x) :=
  ⟨by simp [Instr.wellFormed, regInRange], masked_packXNN_low _ x _⟩

theorem ldMemVx (x : Reg) : Statement (.ldMemVx x) :=
  ⟨by simp [Instr.wellFormed, regInRange], masked_packXNN_low _ x _⟩

theorem ldVxMem (x : Reg) : Statement (.ldVxMem x) :=
  ⟨by simp [Instr.wellFormed, regInRange], masked_packXNN_low _ x _⟩

end Sys2Proof.Laws.RowMatch
end

