-- ==== Sys2Proof/Laws/Step.lean ====
section
/-! SUPPORT. Sys2Proof/Laws/Step.lean: what an execution and a tick can do, said once; and the fetch in the spec's
arithmetic. -/

namespace Sys2Proof.Machine

/-- `t` is the state that `i` leaves when it raises no fault. -/
def Effect (i : Instr) (s t : State) : Prop :=
  match i with
  | .cls => t = s.afterFetch.clearScreen
  | .ret => ∃ a rest, s.stack = a :: rest ∧ t = (s.afterFetch.setStack rest).jumpTo a
  | .jp nnn => t = s.afterFetch.jumpTo (zextAddr nnn)
  | .call nnn => s.stack.length < s.build.stackDepth ∧
      t = (s.afterFetch.setStack ((s.pc + 2#16) :: s.stack)).jumpTo (zextAddr nnn)
  | .seImm x nn => t = s.afterFetch.skipIf (decide (s.reg x = nn))
  | .sneImm x nn => t = s.afterFetch.skipIf (decide (s.reg x ≠ nn))
  | .seReg x y => t = s.afterFetch.skipIf (decide (s.reg x = s.reg y))
  | .sneReg x y => t = s.afterFetch.skipIf (decide (s.reg x ≠ s.reg y))
  | .skp x => ∃ k, digitOf (s.reg x) = some k ∧ t = s.afterFetch.skipIf (s.keyDown k)
  | .sknp x => ∃ k, digitOf (s.reg x) = some k ∧ t = s.afterFetch.skipIf (!s.keyDown k)
  | .ldImm x nn => t = s.afterFetch.setReg x nn
  | .addImm x nn => t = s.afterFetch.setReg x (s.reg x + nn)
  | .ldReg x y => t = s.afterFetch.setReg x (s.reg y)
  | .orReg x y => t = s.afterFetch.setLogicResult x (s.reg x ||| s.reg y)
  | .andReg x y => t = s.afterFetch.setLogicResult x (s.reg x &&& s.reg y)
  | .xorReg x y => t = s.afterFetch.setLogicResult x (s.reg x ^^^ s.reg y)
  | .addReg x y => t = s.afterFetch.setRegThenFlag x (s.reg x + s.reg y) (carryFlag (s.reg x) (s.reg y))
  | .sub x y => t = s.afterFetch.setRegThenFlag x (s.reg x - s.reg y) (notBorrowFlag (s.reg x) (s.reg y))
  | .subn x y => t = s.afterFetch.setRegThenFlag x (s.reg y - s.reg x) (notBorrowFlag (s.reg y) (s.reg x))
  | .shr x y => t = s.afterFetch.setRegThenFlag x (s.shiftSource x y >>> 1) (shiftedOutRight (s.shiftSource x y))
  | .shl x y => t = s.afterFetch.setRegThenFlag x (s.shiftSource x y <<< 1) (shiftedOutLeft (s.shiftSource x y))
  | .ldI nnn => t = s.afterFetch.setIndex (zextAddr nnn)
  | .jpV0 nnn => t = s.afterFetch.jumpTo (zextAddr nnn + zextByte (s.jumpOffset nnn))
  | .rnd x nn => t = s.afterFetch.countDraw.setReg x (s.rand8 &&& nn)
  | .drw x y n => s.boundsCheck n.val = none ∧ t = s.afterFetch.showRaster (s.spriteRaster x y n)
  | .ldVxDt x => t = s.afterFetch.setReg x s.dt
  | .ldVxK x => (∃ k, s.lowestKeyDown = some k ∧ t = s.afterFetch.setReg x (keyByte k)) ∨
      s.lowestKeyDown = none ∧ t = s.afterFetch.jumpTo s.pc
  | .ldDtVx x => t = s.afterFetch.setDelay (s.reg x)
  | .ldStVx x => t = s.afterFetch.setSound (s.reg x)
  | .addIVx x => t = s.afterFetch.setIndex (s.index + zextByte (s.reg x))
  | .ldFVx x => ∃ d, digitOf (s.reg x) = some d ∧ t = s.afterFetch.setIndex (glyphAddress d)
  | .ldBVx x => s.storeCheck 3 = none ∧ t = s.afterFetch.storeAtIndex (bcdDigits (s.reg x))
  | .ldMemVx x => s.storeCheck (x.val + 1) = none ∧ t = (s.afterFetch.storeAtIndex (s.regBlock x)).bumpIndex x
  | .ldVxMem x => s.boundsCheck (x.val + 1) = none ∧ t = (s.afterFetch.loadRegBlock x).bumpIndex x

/-- A meaning that ends in `faultOr` raises its check's fault or has its effect. -/
theorem faultOr_cases (i : Instr) (s effect : State) (check : Option FaultKind) :
    ∃ t, faultOr i s check effect = .next t ∧
      ((∃ kind, t = s.raise kind (some (encode i))) ∨ check = none ∧ t = effect) := by
  cases check with
  | none => exact ⟨_, rfl, .inr ⟨rfl, rfl⟩⟩
  | some kind => exact ⟨_, rfl, .inl ⟨kind, rfl⟩⟩

/-- Each instruction answers a next state: the state it began in with a fault record, or its effect. -/
theorem exec_effect (i : Instr) (s : State) :
    ∃ t, exec i s = .next t ∧ ((∃ kind, t = s.raise kind (some (encode i))) ∨ Effect i s t) := by
  cases i with
  | ret =>
    simp only [exec, execRet]
    split
    · exact ⟨_, rfl, .inl ⟨_, rfl⟩⟩
    · obtain ⟨rest, hs, rfl⟩ := pop_eq_some.1 ‹_›
      exact ⟨_, rfl, .inr ⟨_, rest, hs, rfl⟩⟩
  | call nnn =>
    simp only [exec, execCall]
    split
    · exact ⟨_, rfl, .inl ⟨_, rfl⟩⟩
    · obtain ⟨hs, rfl⟩ := push_eq_some.1 ‹_›
      exact ⟨_, rfl, .inr ⟨hs, rfl⟩⟩
  | skp x =>
    simp only [exec, execSkp]
    split
    · exact ⟨_, rfl, .inl ⟨_, rfl⟩⟩
    · exact ⟨_, rfl, .inr ⟨_, ‹_›, rfl⟩⟩
  | sknp x =>
    simp only [exec, execSknp]
    split
    · exact ⟨_, rfl, .inl ⟨_, rfl⟩⟩
    · exact ⟨_, rfl, .inr ⟨_, ‹_›, rfl⟩⟩
  | ldFVx x =>
    simp only [exec, execLdFVx]
    split
    · exact ⟨_, rfl, .inl ⟨_, rfl⟩⟩
    · exact ⟨_, rfl, .inr ⟨_, ‹_›, rfl⟩⟩
  | ldVxK x =>
    simp only [exec, execLdVxK]
    split
    · exact ⟨_, rfl, .inr (.inl ⟨_, ‹_›, rfl⟩)⟩
    · exact ⟨_, rfl, .inr (.inr ⟨‹_›, by simp⟩)⟩
  | ldBVx x => exact faultOr_cases _ _ _ _
  | ldMemVx x => exact faultOr_cases _ _ _ _
  | ldVxMem x => exact faultOr_cases _ _ _ _
  | drw x y n => exact faultOr_cases _ _ _ _
  | _ => exact ⟨_, rfl, .inr rfl⟩

/-- Every effect keeps the fault record, the key state, rom_loaded and the build parameters. -/
theorem effect_keeps {i : Instr} {s t : State} (h : Effect i s t) :
    t.fault = s.fault ∧ t.keys = s.keys ∧ t.romLoaded = s.romLoaded ∧ t.build = s.build := by
  cases i with
  | ret => obtain ⟨a, rest, -, rfl⟩ := h; simp
  | ldVxK x => obtain ⟨k, -, rfl⟩ | ⟨-, rfl⟩ := h <;> simp
  | skp x => obtain ⟨k, -, rfl⟩ := h; simp
  | sknp x => obtain ⟨k, -, rfl⟩ := h; simp
  | ldFVx x => obtain ⟨k, -, rfl⟩ := h; simp
  | call nnn => obtain ⟨-, rfl⟩ := h; simp
  | drw x y n => obtain ⟨-, rfl⟩ := h; simp
  | ldBVx x => obtain ⟨-, rfl⟩ := h; simp
  | ldMemVx x => obtain ⟨-, rfl⟩ := h; simp
  | ldVxMem x => obtain ⟨-, rfl⟩ := h; simp
  | _ => obtain rfl := h; simp

/-- The word of two bytes as the spec's `high * 256 + low` (20_memory.md R85). -/
theorem wordOfBytes_eq_ofNat (hi lo : Byte) : wordOfBytes hi lo = BitVec.ofNat 16 (hi.toNat * 256 + lo.toNat) := by
  apply BitVec.eq_of_toNat_eq
  have := hi.isLt
  have := lo.isLt
  rw [wordOfBytes_toNat, BitVec.toNat_ofNat]
  omega

theorem fetchCheck_eq_none {s : State} : s.fetchCheck = none ↔ s.romLoaded = true ∧ s.pc.toNat ≤ 0xFFE := by
  unfold State.fetchCheck
  cases s.romLoaded <;> simp

/-- A tick of a state that is HALTED (60_exceptions.md R260). -/
theorem step_halted {s : State} (h : s.fault ≠ none) : step s = .next s := by
  have : s.halted = true := Option.isSome_iff_ne_none.2 h
  simp [step, this, haltedTick]

theorem not_halted {s : State} (h : s.fault = none) : s.halted = false := by simp [State.halted, h]

/-- A tick whose checks before the fetch fail. -/
theorem step_fetchCheck {s : State} {kind : FaultKind} (h : s.fault = none) (hk : s.fetchCheck = some kind) :
    step s = .next (s.raise kind none) := by
  simp [step, not_halted h, hk]

/-- A tick that fetches a word: what it does is decided by the decoder's answer. -/
theorem step_fetched {s : State} (h : s.fault = none) (hk : s.fetchCheck = none) :
    step s = match decode s.fetchWord with
      | .unrecognised w => .next (s.raise .unknownOpcode (some w))
      | .instruction i => exec i s := by
  simp only [step, not_halted h, hk, State.fetchWord, decodeBytes]
  rfl

/-- Everything that a tick can do. -/
theorem step_cases {s t : State} (h : step s = .next t) :
    (s.fault ≠ none ∧ t = s) ∨
    (s.fault = none ∧ ∃ kind, s.fetchCheck = some kind ∧ t = s.raise kind none) ∨
    (s.fault = none ∧ s.fetchCheck = none ∧
      ∃ w, decode s.fetchWord = .unrecognised w ∧ t = s.raise .unknownOpcode (some w)) ∨
    (s.fault = none ∧ s.fetchCheck = none ∧ ∃ i, decode s.fetchWord = .instruction i ∧ exec i s = .next t) := by
  by_cases hf : s.fault = none
  · refine .inr ?_
    cases hc : s.fetchCheck with
    | some kind =>
      rw [step_fetchCheck hf hc] at h
      cases h
      exact .inl ⟨hf, kind, rfl, rfl⟩
    | none =>
      rw [step_fetched hf hc] at h
      split at h
      · cases h
        exact .inr (.inl ⟨hf, rfl, _, ‹_›, rfl⟩)
      · exact .inr (.inr ⟨hf, rfl, _, ‹_›, h⟩)
  · rw [step_halted hf] at h
    cases h
    exact .inl ⟨hf, rfl⟩

end Sys2Proof.Machine
end

