-- ==== Sys2Proof/Machine/Assembly.lean ====
section
/-! DEFINITION. Sys2Proof/Machine/Assembly.lean: the assembly spelling of an instruction (30_encoding.md R115 and the
mnemonic column of R107). It has no part in the machine's behaviour (log 10). -/

namespace Sys2Proof.Machine

/-- One hexadecimal digit. -/
def hexDigit (d : Nat) : String := "0123456789ABCDEF".toList.getD (d % 16) '0' |>.toString

/-- A number in hexadecimal with its low `digits` digits, most significant first. -/
def hexDigits : Nat → Nat → String
  | 0, _ => ""
  | digits + 1, n => hexDigits digits (n / 16) ++ hexDigit n

/-- "Registers are written V0 to VF." -/
def regName (x : Reg) : String := "V" ++ hexDigit x.val

/-- An immediate NN: "Immediates and addresses are written in hexadecimal". -/
def immText (nn : Byte) : String := "0x" ++ hexDigits 2 nn.toNat

/-- An address NNN. -/
def addrText (nnn : Addr12) : String := "0x" ++ hexDigits 3 nnn.toNat

/-- A row count N. -/
def rowsText (n : Fin 16) : String := "0x" ++ hexDigit n.val

/-- A mnemonic with one operand. -/
def spell1 (mnemonic a : String) : String := mnemonic ++ " " ++ a

/-- A mnemonic with two operands, destination first. -/
def spell2 (mnemonic a b : String) : String := spell1 mnemonic a ++ ", " ++ b

/-- The assembly text of an instruction (R107's mnemonics; SHR and SHL name Y under either shift source). -/
def assemblyText : Instr → String
  | .cls => "CLS"
  | .ret => "RET"
  | .jp nnn => spell1 "JP" (addrText nnn)
  | .call nnn => spell1 "CALL" (addrText nnn)
  | .seImm x nn => spell2 "SE" (regName x) (immText nn)
  | .sneImm x nn => spell2 "SNE" (regName x) (immText nn)
  | .seReg x y => spell2 "SE" (regName x) (regName y)
  | .ldImm x nn => spell2 "LD" (regName x) (immText nn)
  | .addImm x nn => spell2 "ADD" (regName x) (immText nn)
  | .ldReg x y => spell2 "LD" (regName x) (regName y)
  | .orReg x y => spell2 "OR" (regName x) (regName y)
  | .andReg x y => spell2 "AND" (regName x) (regName y)
  | .xorReg x y => spell2 "XOR" (regName x) (regName y)
  | .addReg x y => spell2 "ADD" (regName x) (regName y)
  | .sub x y => spell2 "SUB" (regName x) (regName y)
  | .shr x y => spell2 "SHR" (regName x) (regName y)
  | .subn x y => spell2 "SUBN" (regName x) (regName y)
  | .shl x y => spell2 "SHL" (regName x) (regName y)
  | .sneReg x y => spell2 "SNE" (regName x) (regName y)
  | .ldI nnn => spell2 "LD" "I" (addrText nnn)
  | .jpV0 nnn => spell2 "JP" "V0" (addrText nnn)
  | .rnd x nn => spell2 "RND" (regName x) (immText nn)
  | .drw x y n => spell2 "DRW" (regName x) (regName y) ++ ", " ++ rowsText n
  | .skp x => spell1 "SKP" (regName x)
  | .sknp x => spell1 "SKNP" (regName x)
  | .ldVxDt x => spell2 "LD" (regName x) "DT"
  | .ldVxK x => spell2 "LD" (regName x) "K"
  | .ldDtVx x => spell2 "LD" "DT" (regName x)
  | .ldStVx x => spell2 "LD" "ST" (regName x)
  | .addIVx x => spell2 "ADD" "I" (regName x)
  | .ldFVx x => spell2 "LD" "F" (regName x)
  | .ldBVx x => spell2 "LD" "B" (regName x)
  | .ldMemVx x => spell2 "LD" "[I]" (regName x)
  | .ldVxMem x => spell2 "LD" (regName x) "[I]"

end Sys2Proof.Machine
end

