-- ==== Sys2Proof/Tests/Slice0.lean ====
section
/-! SUPPORT. Sys2Proof/Tests/Slice0.lean: the smoke test of the range checks, words decoded by hand from
30_encoding.md R107, one-step vectors of 95_test_vectors.md under the names it gives them, and a witness for the
hypotheses of each obligation. -/

namespace Sys2Proof.Tests

open Sys2Proof.Machine Sys2Proof.Claims

-- one theorem after another: a thread for each waiting theorem would pass the memory limit of the check
set_option Elab.async false

/-! ## The range checks refuse what is out of range -/

theorem test_register_16_refused : regInRange 16 = false ∧ regInRange 15 = true := by decide
theorem test_address_4096_refused : addrInRange 4096 = false ∧ addrInRange 4095 = true := by decide
theorem test_byte_256_refused : byteInRange 256 = false ∧ byteInRange 255 = true := by decide
theorem test_rows_16_refused : rowsInRange 16 = false ∧ rowsInRange 15 = true := by decide
theorem test_stackDepth_refused :
    ({ defaultBuild with stackDepth := 11 } : Build).wellFormed = false ∧
    ({ defaultBuild with stackDepth := 17 } : Build).wellFormed = false ∧
    ({ defaultBuild with stackDepth := 12 } : Build).wellFormed = true := by decide
theorem test_rom_E01_refused :
    romFits (List.replicate 0xE01 0#8) = false ∧ romFits (List.replicate 0xE00 0#8) = true := by
  rw [romFits, romFits, List.length_replicate, List.length_replicate]
  decide

/-! ## Decoding: words written out from the fields of R101 and the rows of R107, op X Y N nibble by nibble -/

theorem test_decode_cls : decode 0x00E0#16 = .instruction (.cls) := by decide
theorem test_decode_ret : decode 0x00EE#16 = .instruction (.ret) := by decide
theorem test_decode_jp : decode 0x1ABC#16 = .instruction (.jp 0xABC#12) := by decide
theorem test_decode_call : decode 0x2DEF#16 = .instruction (.call 0xDEF#12) := by decide
theorem test_decode_seImm : decode 0x3A5C#16 = .instruction (.seImm 0xA 0x5C#8) := by decide
theorem test_decode_sneImm : decode 0x4F01#16 = .instruction (.sneImm 0xF 0x01#8) := by decide
theorem test_decode_seReg : decode 0x5120#16 = .instruction (.seReg 1 2) := by decide
theorem test_decode_ldImm : decode 0x6971#16 = .instruction (.ldImm 9 0x71#8) := by decide
theorem test_decode_addImm : decode 0x7102#16 = .instruction (.addImm 1 0x02#8) := by decide
theorem test_decode_ldReg : decode 0x8120#16 = .instruction (.ldReg 1 2) := by decide
theorem test_decode_orReg : decode 0x83E1#16 = .instruction (.orReg 3 0xE) := by decide
theorem test_decode_andReg : decode 0x8452#16 = .instruction (.andReg 4 5) := by decide
theorem test_decode_xorReg : decode 0x8673#16 = .instruction (.xorReg 6 7) := by decide
theorem test_decode_addReg : decode 0x8F14#16 = .instruction (.addReg 0xF 1) := by decide
theorem test_decode_sub : decode 0x8895#16 = .instruction (.sub 8 9) := by decide
theorem test_decode_shr : decode 0x8AB6#16 = .instruction (.shr 0xA 0xB) := by decide
theorem test_decode_subn : decode 0x8CD7#16 = .instruction (.subn 0xC 0xD) := by decide
theorem test_decode_shl : decode 0x801E#16 = .instruction (.shl 0 1) := by decide
theorem test_decode_sneReg : decode 0x9E30#16 = .instruction (.sneReg 0xE 3) := by decide
theorem test_decode_ldI : decode 0xA2F0#16 = .instruction (.ldI 0x2F0#12) := by decide
theorem test_decode_jpV0 : decode 0xB220#16 = .instruction (.jpV0 0x220#12) := by decide
theorem test_decode_rnd : decode 0xC30F#16 = .instruction (.rnd 3 0x0F#8) := by decide
theorem test_decode_drw : decode 0xD125#16 = .instruction (.drw 1 2 5) := by decide
theorem test_decode_skp : decode 0xE59E#16 = .instruction (.skp 5) := by decide
theorem test_decode_sknp : decode 0xE6A1#16 = .instruction (.sknp 6) := by decide
theorem test_decode_ldVxDt : decode 0xF507#16 = .instruction (.ldVxDt 5) := by decide
theorem test_decode_ldVxK : decode 0xF30A#16 = .instruction (.ldVxK 3) := by decide
theorem test_decode_ldDtVx : decode 0xF215#16 = .instruction (.ldDtVx 2) := by decide
theorem test_decode_ldStVx : decode 0xF218#16 = .instruction (.ldStVx 2) := by decide
theorem test_decode_addIVx : decode 0xF21E#16 = .instruction (.addIVx 2) := by decide
theorem test_decode_ldFVx : decode 0xF029#16 = .instruction (.ldFVx 0) := by decide
theorem test_decode_ldBVx : decode 0xF533#16 = .instruction (.ldBVx 5) := by decide
theorem test_decode_ldMemVx : decode 0xFF55#16 = .instruction (.ldMemVx 0xF) := by decide
theorem test_decode_ldVxMem : decode 0xF465#16 = .instruction (.ldVxMem 4) := by decide
theorem test_decode_drw_no_rows : decode 0xD010#16 = .instruction (.drw 0 1 0) := by decide

/-- K7 to K14: words of no row. -/
theorem test_decode_unrecognised :
    decode 0x0123#16 = .unrecognised 0x0123#16 ∧ decode 0x0000#16 = .unrecognised 0x0000#16 ∧
    decode 0x00FF#16 = .unrecognised 0x00FF#16 ∧ decode 0x5121#16 = .unrecognised 0x5121#16 ∧
    decode 0x9121#16 = .unrecognised 0x9121#16 ∧ decode 0x8128#16 = .unrecognised 0x8128#16 ∧
    decode 0xE000#16 = .unrecognised 0xE000#16 ∧ decode 0xF0FF#16 = .unrecognised 0xF0FF#16 ∧
    decode 0xF030#16 = .unrecognised 0xF030#16 ∧ decode 0xF075#16 = .unrecognised 0xF075#16 := by decide

/-- The host's numbering: bit 0 is the least significant bit of the one word. -/
theorem test_decodeTableWord : decodeTableWord 16 0x8126 = some (.shr 1 2) ∧ decodeTableWord 16 0x5121 = none := by decide

/-- The first step after reset runs the word that `withFetchWord` places. -/
theorem test_withFetchWord :
    step (State.reset.withFetchWord 16 0x6971) = exec (.ldImm 9 0x71#8) (State.reset.withFetchWord 16 0x6971) := by
  rfl

/-! ## One-step vectors (95_test_vectors.md section 2); the start state is that of its conventions -/

/-- A constructed machine with a ROM of these bytes at 0x200. -/
def boot (rom : List Byte) : State := (State.reset.loadRom rom).1

/-- General registers given by a vector. -/
def withRegs (rs : List (Reg × Byte)) (s : State) : State := rs.foldl (fun s r => s.setReg r.1 r.2) s

/-- Bytes of memory given by a vector. -/
def withBytes (a : Nat) (bs : List Byte) (s : State) : State := s.writeFrom a bs

/-- Parameters given by a vector. -/
def withBuild (b : Build) (s : State) : State := { s with build := b }

/-- The next state of one TICK meets a check. -/
def ticks (s : State) (check : State → Bool) : Bool :=
  match step s with
  | .next t => check t
  | .fault _ => false
  | .refused _ => false

/-- One TICK records exactly this fault. -/
def faults (s : State) (kind : FaultKind) (pcAt : Word) (word : Option Word) : Bool :=
  ticks s (fun t => decide (t = { s with fault := some { kind := kind, pcAt := pcAt, word := word } }))

/-- The lit pixels (x, y), in row-major order. -/
def lit (fb : Framebuffer) : List (Nat × Nat) :=
  ((List.range 2048).filter (fun k => fb.getLsbD k)).map (fun k => (k % 64, k / 64))

/-- A framebuffer with one lit pixel. -/
def onePixel (x y : Nat) : Framebuffer := Framebuffer.flip 0#2048 x y

/-! ### Control flow -/

theorem test_F1_jp : ticks (boot [0x12, 0x34])
    (fun t => t.pc == 0x234#16) = true := by decide +kernel
theorem test_F5_call_pushes : ticks ({ (boot [0x23, 0x00]) with stack := List.replicate 15 0x202#16 } : State)
    (fun t => t.pc == 0x300#16 && t.stack == List.replicate 16 0x202#16) = true := by decide +kernel
theorem test_F7_call_full : faults
    (withBuild { defaultBuild with stackDepth := 12 } { boot [0x23, 0x00] with stack := List.replicate 12 0x202#16 })
    .stackOverflow 0x200 (some 0x2300) = true := by decide +kernel
theorem test_F8_ret : ticks ({ (boot [0x00, 0xEE]) with stack := [0x204#16, 0x208#16] } : State)
    (fun t => t.pc == 0x204#16 && t.stack == [0x208#16]) = true := by decide +kernel
theorem test_F9_ret_empty : faults (boot [0x00, 0xEE]) .stackUnderflow 0x200 (some 0x00EE) = true := by decide +kernel
theorem test_F11_jpV0 : ticks (withRegs [(0, 0xFF)] (boot [0xBF, 0xFF]))
    (fun t => t.pc == 0x10FE#16) = true := by decide +kernel
theorem test_F12_jpVX : ticks (withRegs [(0, 1), (2, 0x10)] (withBuild { defaultBuild with jumpOffsetUsesVx := true } (boot [0xB2, 0x20])))
    (fun t => t.pc == 0x230#16) = true := by decide +kernel

/-! ### Skips -/

theorem test_J1_seImm : ticks (withRegs [(3, 0x42)] (boot [0x33, 0x42]))
    (fun t => t.pc == 0x204#16) = true := by decide +kernel
theorem test_J2_seImm_not : ticks (withRegs [(3, 0x42)] (boot [0x33, 0x41]))
    (fun t => t.pc == 0x202#16) = true := by decide +kernel
theorem test_J3_sneImm_not : ticks (withRegs [(3, 0x42)] (boot [0x43, 0x42]))
    (fun t => t.pc == 0x202#16) = true := by decide +kernel
theorem test_J4_sneImm : ticks (withRegs [(3, 0x42)] (boot [0x43, 0x41]))
    (fun t => t.pc == 0x204#16) = true := by decide +kernel
theorem test_J5_seReg : ticks (withRegs [(1, 7), (2, 7)] (boot [0x51, 0x20]))
    (fun t => t.pc == 0x204#16) = true := by decide +kernel
theorem test_J7_sneReg : ticks (withRegs [(1, 7), (2, 8)] (boot [0x91, 0x20]))
    (fun t => t.pc == 0x204#16) = true := by decide +kernel
theorem test_J8_sneReg_not : ticks (withRegs [(1, 7), (2, 7)] (boot [0x91, 0x20]))
    (fun t => t.pc == 0x202#16) = true := by decide +kernel
theorem test_J9_skp : ticks (State.keySet 0xA true (withRegs [(5, 0xA)] (boot [0xE5, 0x9E])))
    (fun t => t.pc == 0x204#16) = true := by decide +kernel
theorem test_J13_skp_out_of_range : faults (withRegs [(5, 0x10)] (boot [0xE5, 0x9E])) .operandOutOfRange 0x200 (some 0xE59E) = true := by
  decide +kernel
theorem test_J11_sknp : ticks (withRegs [(5, 0xA)] (boot [0xE5, 0xA1]))
    (fun t => t.pc == 0x204#16) = true := by decide +kernel
theorem test_J12_sknp_not : ticks (State.keySet 0xA true (withRegs [(5, 0xA)] (boot [0xE5, 0xA1])))
    (fun t => t.pc == 0x202#16) = true := by decide +kernel

/-! ### Registers and ALU -/

theorem test_A2_ldImm : ticks (withRegs [(15, 1)] (boot [0x6F, 0x00]))
    (fun t => t.reg 15 == 0x00#8 && t.pc == 0x202#16) = true := by decide +kernel
theorem test_A3_addImm : ticks (withRegs [(1, 0xFF), (15, 0x55)] (boot [0x71, 0x02]))
    (fun t => t.reg 1 == 0x01#8 && t.reg 15 == 0x55#8 && t.pc == 0x202#16) = true := by decide +kernel
theorem test_A5_ldReg : ticks (withRegs [(2, 0x33)] (boot [0x81, 0x20]))
    (fun t => t.reg 1 == 0x33#8 && t.reg 2 == 0x33#8 && t.pc == 0x202#16) = true := by decide +kernel
theorem test_A6_orReg : ticks (withRegs [(1, 0x0F), (2, 0xF0), (15, 0x77)] (boot [0x81, 0x21]))
    (fun t => t.reg 1 == 0xFF#8 && t.reg 15 == 0x77#8 && t.pc == 0x202#16) = true := by decide +kernel
theorem test_A7_orReg_resets : ticks (withRegs [(1, 1), (2, 2), (15, 9)] (withBuild { defaultBuild with logicResetsVf := true } (boot [0x81, 0x21])))
    (fun t => t.reg 1 == 0x03#8 && t.reg 15 == 0x00#8 && t.pc == 0x202#16) = true := by decide +kernel
theorem test_A8_andReg : ticks (withRegs [(1, 0x3C), (2, 0x0F)] (boot [0x81, 0x22]))
    (fun t => t.reg 1 == 0x0C#8 && t.pc == 0x202#16) = true := by decide +kernel
theorem test_A9_xorReg : ticks (withRegs [(1, 0x3C), (2, 0x0F)] (boot [0x81, 0x23]))
    (fun t => t.reg 1 == 0x33#8 && t.pc == 0x202#16) = true := by decide +kernel
theorem test_A11_addReg : ticks (withRegs [(1, 0xFF), (2, 1)] (boot [0x81, 0x24]))
    (fun t => t.reg 1 == 0x00#8 && t.reg 15 == 0x01#8 && t.pc == 0x202#16) = true := by decide +kernel
theorem test_A13_addReg_to_VF : ticks (withRegs [(15, 0xFF), (1, 2)] (boot [0x8F, 0x14]))
    (fun t => t.reg 15 == 0x01#8 && t.pc == 0x202#16) = true := by decide +kernel
theorem test_A14_sub_borrow : ticks (withRegs [(1, 5), (2, 7)] (boot [0x81, 0x25]))
    (fun t => t.reg 1 == 0xFE#8 && t.reg 15 == 0x00#8 && t.pc == 0x202#16) = true := by decide +kernel
theorem test_A15_sub_equal : ticks (withRegs [(1, 7), (2, 7)] (boot [0x81, 0x25]))
    (fun t => t.reg 1 == 0x00#8 && t.reg 15 == 0x01#8 && t.pc == 0x202#16) = true := by decide +kernel
theorem test_A19_shr : ticks (withRegs [(1, 4), (2, 0xFF)] (boot [0x81, 0x26]))
    (fun t => t.reg 1 == 0x02#8 && t.reg 15 == 0x00#8 && t.pc == 0x202#16) = true := by decide +kernel
theorem test_A20_shr_VY : ticks (withRegs [(1, 4), (2, 0xFF)] (withBuild { defaultBuild with shiftUsesVy := true } (boot [0x81, 0x26])))
    (fun t => t.reg 1 == 0x7F#8 && t.reg 15 == 0x01#8 && t.pc == 0x202#16) = true := by decide +kernel
theorem test_A22_subn : ticks (withRegs [(1, 5), (2, 7)] (boot [0x81, 0x27]))
    (fun t => t.reg 1 == 0x02#8 && t.reg 15 == 0x01#8 && t.pc == 0x202#16) = true := by decide +kernel
theorem test_A23_subn_borrow : ticks (withRegs [(1, 1), (2, 0)] (boot [0x81, 0x27]))
    (fun t => t.reg 1 == 0xFF#8 && t.reg 15 == 0x00#8 && t.pc == 0x202#16) = true := by decide +kernel
theorem test_A24_shl : ticks (withRegs [(1, 0x81)] (boot [0x81, 0x0E]))
    (fun t => t.reg 1 == 0x02#8 && t.reg 15 == 0x01#8 && t.pc == 0x202#16) = true := by decide +kernel
theorem test_A25_shl_no_bit : ticks (withRegs [(1, 0x7F)] (boot [0x81, 0x0E]))
    (fun t => t.reg 1 == 0xFE#8 && t.reg 15 == 0x00#8 && t.pc == 0x202#16) = true := by decide +kernel

/-! ### Index register and memory -/

theorem test_M1_ldI : ticks (boot [0xA2, 0xF0])
    (fun t => t.index == 0x2F0#16 && t.pc == 0x202#16) = true := by decide +kernel
theorem test_M3_addIVx : ticks ({ (withRegs [(2, 1)] (boot [0xF2, 0x1E])) with index := 0xFFF#16 } : State)
    (fun t => t.index == 0x1000#16 && t.pc == 0x202#16) = true := by decide +kernel
theorem test_M4_addIVx_wraps : ticks ({ (withRegs [(2, 1)] (boot [0xF2, 0x1E])) with index := 0xFFFF#16 } : State)
    (fun t => t.index == 0x0000#16) = true := by decide +kernel
theorem test_M6_ldFVx : ticks (withRegs [(0, 0xF)] (boot [0xF0, 0x29]))
    (fun t => t.index == 0x04B#16 && t.pc == 0x202#16) = true := by decide +kernel
theorem test_M7_ldFVx_out_of_range : faults (withRegs [(0, 0x10)] (boot [0xF0, 0x29])) .operandOutOfRange 0x200 (some 0xF029) = true := by
  decide +kernel
theorem test_M8_ldBVx : ticks ({ (withRegs [(5, 0x9C)] (boot [0xF5, 0x33])) with index := 0x300#16 } : State)
    (fun t => [t.readByte 0x300, t.readByte 0x301, t.readByte 0x302] == [1#8, 5#8, 6#8] && t.pc == 0x202#16) = true := by decide +kernel
theorem test_M13_ldBVx_permit : ticks ({ (withRegs [(0, 0x7B)] (withBuild { defaultBuild with lowWritePolicy := .permit } (boot [0xF0, 0x33]))) with index := 0x100#16 } : State)
    (fun t => [t.readByte 0x100, t.readByte 0x101, t.readByte 0x102] == [1#8, 2#8, 3#8]) = true := by decide +kernel
theorem test_M15_ldMemVx_increments : ticks ({ (withRegs [(0, 1), (1, 2), (2, 3)] (withBuild { defaultBuild with loadstoreIncrementsI := true } (boot [0xF2, 0x55]))) with index := 0x400#16 } : State)
    (fun t => [t.readByte 0x400, t.readByte 0x401, t.readByte 0x402] == [1#8, 2#8, 3#8] && t.index == 0x403#16) = true := by decide +kernel
theorem test_M19_ldMemVx_font : faults (withBuild { defaultBuild with lowWritePolicy := .permit }
    { boot [0xF0, 0x55] with index := 0x04F#16 }) .protectedWrite 0x200 (some 0xF055) = true := by decide +kernel
theorem test_M21_ldVxMem : ticks (withRegs [(5, 0x77)] (boot [0xF4, 0x65]))
    (fun t => [t.reg 0, t.reg 1, t.reg 2, t.reg 3, t.reg 4, t.reg 5] == [0xF0#8, 0x90#8, 0x90#8, 0x90#8, 0xF0#8, 0x77#8] &&
      t.index == 0#16) = true := by decide +kernel
theorem test_M23_ldVxMem_out_of_bounds : faults { boot [0xF1, 0x65] with index := 0xFFF#16 } .dataOutOfBounds 0x200 (some 0xF165) = true := by
  decide +kernel

/-! ### Display -/

theorem test_D11_cls : ticks ({ (boot [0x00, 0xE0]) with fb := onePixel 63 31 } : State)
    (fun t => lit t.fb == [] && t.drawFlag && t.pc == 0x202#16) = true := by decide +kernel
theorem test_D3_drw_wraps : ticks ({ (withRegs [(0, 0x3C)] (withBytes 0x300 [0xFF] (withBuild { defaultBuild with drawWrap := true } (boot [0xD0, 0x11])))) with index := 0x300#16 } : State)
    (fun t => lit t.fb == [(0, 0), (1, 0), (2, 0), (3, 0), (60, 0), (61, 0), (62, 0), (63, 0)]) = true := by decide +kernel
theorem test_D6_drw_collides : ticks ({ (withBytes 0x300 [0xC0] (boot [0xD0, 0x11])) with index := 0x300#16, fb := onePixel 1 0 } : State)
    (fun t => lit t.fb == [(0, 0)] && t.reg 15 == 1#8 && t.drawFlag && t.pc == 0x202#16) = true := by decide +kernel

/-! ### Random, timers, keys -/

/-- T1, for the draw that the vector supposes. -/
theorem test_T1_rnd (h : Config.randomByte 0 = 0xA7#8) :
    ∃ t, step (boot [0xC3, 0x0F]) = .next t ∧ t.reg 3 = 0x07#8 ∧ t.draws = 1 :=
  ⟨_, rfl, show Config.randomByte 0 &&& 0x0F#8 = 0x07#8 by rw [h]; rfl, rfl⟩

theorem test_T3_ldVxDt : ticks ({ (boot [0xF5, 0x07]) with dt := 0x3C#8 } : State)
    (fun t => t.reg 5 == 0x3C#8 && t.pc == 0x202#16) = true := by decide +kernel
theorem test_T4_ldVxK : ticks (State.keySet 0xC true (State.keySet 7 true (boot [0xF3, 0x0A])))
    (fun t => t.reg 3 == 0x07#8 && t.pc == 0x202#16) = true := by decide +kernel
theorem test_T5_ldVxK_waits : ticks (boot [0xF3, 0x0A]) (fun t => decide (t = boot [0xF3, 0x0A])) = true := by decide +kernel
theorem test_T6_ldDtVx : ticks (withRegs [(2, 0x3C)] (boot [0xF2, 0x15]))
    (fun t => t.dt == 0x3C#8 && t.st == 0#8 && t.pc == 0x202#16) = true := by decide +kernel
theorem test_T7_ldStVx : ticks (withRegs [(2, 5)] (boot [0xF2, 0x18]))
    (fun t => t.st == 0x05#8 && t.tone && t.dt == 0#8) = true := by decide +kernel
theorem test_T8_timerTick : ({ State.reset with dt := 1#8 } : State).timerTick = State.reset := by decide +kernel

/-! ### The host's transactions -/

/-- S2 A. -/
theorem test_S2_loadRom :
    (boot [0x12, 0x34, 0xAB]).mem = [(0x200, 0x12#8), (0x201, 0x34#8), (0x202, 0xAB#8)] ∧
    (boot [0x12, 0x34, 0xAB]).romLoaded = true := by decide +kernel

/-- The spelling of R115, on the examples of R115 and 95_test_vectors.md P2 and P3. -/
theorem test_assembly :
    assemblyText (.ldI 0x2F0#12) = "LD I, 0x2F0" ∧ assemblyText (.ldImm 0xA 0x9C#8) = "LD VA, 0x9C" ∧
    assemblyText (.drw 1 2 5) = "DRW V1, V2, 0x5" ∧ assemblyText (.ldVxMem 2) = "LD V2, [I]" := by decide +kernel

/-- S1: the constructed state, at the bytes the source names. -/
theorem test_S1_reset :
    State.reset.readByte 0x000 = 0xF0#8 ∧ State.reset.readByte 0x005 = 0x20#8 ∧ State.reset.readByte 0x04B = 0xF0#8 ∧
    State.reset.readByte 0x04F = 0x80#8 ∧ State.reset.readByte 0x050 = 0x00#8 := by decide +kernel

/-- FONT_TABLE is a parameter (R13): M21 and a RESET on a block whose 80 glyph bytes are another table. -/
theorem test_other_font :
    ticks (withBuild { defaultBuild with fontTable := Vector.replicate 80 0x3C#8 } (boot [0xF0, 0x65]))
      (fun t => t.reg 0 == 0x3C#8 && t.resetBlock.readByte 0x04F == 0x3C#8 && t.resetBlock.readByte 0x050 == 0#8) = true := by
  decide +kernel

/-! ## Witnesses: states and operands that meet the hypotheses of each obligation, each clause at a boundary -/

/-! ### Encoding -/

theorem witness_EncodeInvertsDecode : decode 0xD125#16 = .instruction (.drw 1 2 5) := by decide

theorem witness_OpcodeMapSelectsInstruction :
    ((0x8006#16, 0xF00F#16) ∈ opcodeRows ∧ selectsRow 0x8126#16 (0x8006#16, 0xF00F#16)) ∧
    (∀ r ∈ opcodeRows, ¬ selectsRow 0x8128#16 r) :=
  ⟨⟨by simp [opcodeRows], rfl⟩, by simp [opcodeRows, selectsRow]⟩

theorem witness_OpcodeRowsDisjoint :
    (0xF055#16, 0xF0FF#16) ∈ opcodeRows ∧ selectsRow 0xFF55#16 (0xF055#16, 0xF0FF#16) :=
  ⟨by simp [opcodeRows], rfl⟩

theorem witness_UnrecognisedWordsAreThese : decode 0x0000#16 = .unrecognised 0x0000#16 := by decide

/-! ### The tick -/

theorem witness_StepRunsDecodedInstruction : Fetches (boot [0x60, 0x05]) (.ldImm 0 0x05#8) := by
  unfold Fetches
  decide +kernel

/-- The last address that a word can be fetched from. -/
theorem witness_Fetches_at_FFE : Fetches { withBytes 0xFFE [0x60, 0x05] (boot []) with pc := 0xFFE#16 } (.ldImm 0 0x05#8) := by
  unfold Fetches
  decide +kernel

theorem witness_MissingRomBeforeAnyFetch : State.reset.fault = none ∧ State.reset.romLoaded = false := by decide

/-- A state with pc just past the last word. -/
def pastMemory : State := { boot [] with pc := 0xFFF#16 }

theorem witness_FetchPastMemoryFaults :
    pastMemory.fault = none ∧ pastMemory.romLoaded = true ∧ pastMemory.pc.toNat > 0xFFE := by decide +kernel

theorem witness_UnrecognisedWordFaults :
    (boot []).fault = none ∧ (boot []).romLoaded = true ∧ (boot []).pc.toNat ≤ 0xFFE ∧
    0x0000#16 = BitVec.ofNat 16 (fetchedNumber (boot [])) ∧ decode 0x0000#16 = .unrecognised 0x0000#16 := by
  decide +kernel

/-- A state in HALTED. -/
def halted : State :=
  { boot [] with fault := some { kind := .unknownOpcode, pcAt := 0x200#16, word := some 0x0000#16 } }

theorem witness_HaltedUntilReset : halted.fault ≠ none := by decide +kernel

theorem witness_FaultingTickChangesOnlyRecord : (boot []).fault = none ∧ step (boot []) = .next halted :=
  ⟨rfl, rfl⟩

/-- K2, K3, K8 and the faults of the instructions: each kind is raised by some tick. -/
theorem witness_fault_missingRom : faults State.reset .missingRom 0x200 none = true := by decide +kernel
theorem witness_fault_fetchOutOfBounds : faults pastMemory .fetchOutOfBounds 0xFFF none = true := by decide +kernel
theorem witness_fault_unknownOpcode : faults (boot []) .unknownOpcode 0x200 (some 0x0000) = true := by decide +kernel
theorem witness_fault_stackOverflow :
    faults { boot [0x23, 0x00] with stack := List.replicate 16 0x202#16 } .stackOverflow 0x200 (some 0x2300) = true := by
  decide +kernel
theorem witness_fault_dataOutOfBounds :
    faults (withRegs [(0, 7)] { boot [0xF2, 0x55] with index := 0xFFE#16 }) .dataOutOfBounds 0x200 (some 0xF255) = true := by
  decide +kernel
theorem witness_fault_protectedWrite :
    faults { boot [0xF5, 0x33] with index := 0x1FF#16 } .protectedWrite 0x200 (some 0xF533) = true := by decide +kernel

theorem witness_FaultKindsHaveTheirCauses :
    (boot []).fault = none ∧ (boot []).stack.length ≤ (boot []).build.stackDepth ∧ step (boot []) = .next halted :=
  ⟨rfl, by decide, rfl⟩

/-- The bounds check comes first: the store of the highest FX55 that would also be protected. -/
theorem witness_fault_drw_out_of_bounds :
    faults { boot [0xD0, 0x12] with index := 0xFFF#16 } .dataOutOfBounds 0x200 (some 0xD012) = true := by decide +kernel

/-- The state after the tick of `boot [0x60, 0x05]` (vector K1). -/
def afterK1 : State := { (boot [0x60, 0x05]).setReg 0 0x05#8 with pc := 0x202#16 }

theorem witness_tick_without_fault :
    (boot [0x60, 0x05]).fault = none ∧ step (boot [0x60, 0x05]) = .next afterK1 ∧ afterK1.fault = none :=
  ⟨rfl, rfl, rfl⟩

/-! ### Control transfer and skips -/

theorem witness_JpV0AddsOffset : (0xF : Reg).val = (0xFFF#12 : Addr12).toNat / 256 := by decide

/-- The deepest call that succeeds, and the first that does not, at both ends of STACK_DEPTH's range. -/
theorem witness_CallPushesReturnAddress :
    ∀ d ∈ [12, 16],
      (∃ s : State, s.stack.length < s.build.stackDepth ∧ s.build.stackDepth = d ∧ s.stack.length = d - 1) ∧
      ∃ s : State, s.stack.length = s.build.stackDepth ∧ s.build.stackDepth = d := by
  intro d hd
  have hpos : 0 < d := by
    simp only [List.mem_cons, List.not_mem_nil, or_false] at hd
    omega
  refine ⟨⟨withBuild { defaultBuild with stackDepth := d } { State.reset with stack := List.replicate (d - 1) 0#16 }, ?_⟩,
    ⟨withBuild { defaultBuild with stackDepth := d } { State.reset with stack := List.replicate d 0#16 }, ?_⟩⟩
  · show (List.replicate (d - 1) 0#16).length < d ∧ d = d ∧ (List.replicate (d - 1) 0#16).length = d - 1
    simp only [List.length_replicate, and_self, and_true]
    omega
  · show (List.replicate d 0#16).length = d ∧ d = d
    simp only [List.length_replicate, and_self]

theorem witness_RetPopsReturnAddress :
    (({ State.reset with stack := [0x204#16] } : State).stack = 0x204#16 :: []) ∧ State.reset.stack = [] := by decide +kernel

/-- The state that CALL 300 leaves from `boot [0x23, 0x00]` (vector F4). -/
def afterF4 : State := { boot [0x23, 0x00] with pc := 0x300#16, stack := [0x202#16] }

theorem witness_ReturnGoesBehindCall :
    (boot [0x23, 0x00]).stack.length < (boot [0x23, 0x00]).build.stackDepth ∧
    exec (.call 0x300#12) (boot [0x23, 0x00]) = .next afterF4 ∧ (afterF4.setReg 0 1#8).stack = afterF4.stack :=
  ⟨by decide +kernel, rfl, rfl⟩

/-- The highest key number and the lowest operand beyond it. -/
theorem witness_KeySkips :
    ((withRegs [(5, 0x0F)] State.reset).reg 5).toNat = (15 : Fin 16).val ∧
    ((withRegs [(5, 0x10)] State.reset).reg 5).toNat > 0x0F := by decide +kernel

theorem witness_FontAddressOfDigit :
    ((withRegs [(0, 0x0F)] State.reset).reg 0).toNat ≤ 0xF ∧ ((withRegs [(0, 0x10)] State.reset).reg 0).toNat > 0xF := by
  decide +kernel

/-! ### Register results: the conditional clauses -/

theorem witness_LogicIsBitwise :
    (Instr.orReg 1 2, or) ∈ [(Instr.orReg 1 2, or), (Instr.andReg 1 2, and), (Instr.xorReg 1 2, xor)] ∧
    ({ defaultBuild with logicResetsVf := true } : Build).logicResetsVf = true :=
  ⟨List.mem_cons_self, rfl⟩

theorem witness_ShiftsAndBitOut :
    (0xFF : Byte) =
      if (withBuild { defaultBuild with shiftUsesVy := true } (withRegs [(1, 4), (2, 0xFF)] State.reset)).build.shiftUsesVy
      then (withRegs [(1, 4), (2, 0xFF)] State.reset).reg 2
      else (withRegs [(1, 4), (2, 0xFF)] State.reset).reg 1 := by decide +kernel

/-! ### Memory blocks -/

/-- A state with I at `a` and canonical memory. -/
def indexAt (a : Word) (p : LowWritePolicy) : State :=
  withBuild { defaultBuild with lowWritePolicy := p } { State.reset with index := a }

/-- FX33: the last block inside memory, the first outside, and both ends of each protected range. -/
theorem witness_BcdStoresDigits :
    (indexAt 0xFFD .fault).memWf = true ∧ (indexAt 0xFFD .fault).index.toNat + 2 < 4096 ∧
    ¬ HitsProtected (indexAt 0xFFD .fault) 3 ∧ ¬ HitsProtected (indexAt 0x200 .fault) 3 ∧
    ¬ HitsProtected (indexAt 0x050 .permit) 3 ∧ (indexAt 0xFFE .fault).index.toNat + 2 ≥ 4096 ∧
    HitsProtected (indexAt 0x1FF .fault) 3 ∧ HitsProtected (indexAt 0x04F .permit) 3 := by
  unfold HitsProtected
  decide +kernel

/-- FX55 with X = F: the same boundaries. -/
theorem witness_StoreRegistersToMemory :
    (indexAt 0xFF0 .fault).memWf = true ∧ (indexAt 0xFF0 .fault).index.toNat + (15 : Reg).val < 4096 ∧
    ¬ HitsProtected (indexAt 0xFF0 .fault) 16 ∧ ¬ HitsProtected (indexAt 0x200 .fault) 16 ∧
    (indexAt 0xFF1 .fault).index.toNat + (15 : Reg).val ≥ 4096 ∧
    HitsProtected (indexAt 0x1FF .fault) 16 ∧ HitsProtected (indexAt 0x04F .permit) 16 := by
  unfold HitsProtected
  decide +kernel

theorem witness_LoadRegistersFromMemory :
    (indexAt 0xFF0 .fault).index.toNat + (15 : Reg).val < 4096 ∧
    (indexAt 0xFF1 .fault).index.toNat + (15 : Reg).val ≥ 4096 := by decide +kernel

/-- FX55 stores the two bytes that stand behind it, and the next fetch is of those bytes. -/
def storesNextWord : State := withRegs [(0, 0x60), (1, 0x05)] { boot [0xF1, 0x55] with index := 0x202#16 }

theorem witness_StoredBytesAreFetched :
    storesNextWord.memWf = true ∧ (∃ t, exec (.ldMemVx 1) storesNextWord = .next t ∧ t.pc.toNat = 0x202 + (0 : Reg).val) ∧
    storesNextWord.index.toNat + (1 : Reg).val < 4096 ∧ ¬ HitsProtected storesNextWord 2 ∧
    (1 : Reg).val = (0 : Reg).val + 1 ∧ (1 : Reg) ≤ 1 := by
  refine ⟨by decide +kernel, ⟨_, rfl, by decide +kernel⟩, ?_⟩
  unfold HitsProtected
  decide +kernel

theorem witness_MemoryReadsLastWrite :
    Memory.wf defaultFontTable [(0x200, 1#8), (0xFFF, 2#8)] = true ∧
    Memory.wf defaultFontTable [(0x200, 0#8)] = false ∧ 0xFFF < 4096 := by decide +kernel

/-! ### Display -/

/-- The last sprite inside memory, the first outside, and no rows at the highest I. -/
theorem witness_DrwFlipsSpriteAndReportsCollision :
    (indexAt 0xFF1 .fault).index.toNat + (15 : Fin 16).val ≤ 4096 ∧
    (indexAt 0xFF2 .fault).index.toNat + (15 : Fin 16).val > 4096 ∧ (15 : Fin 16) ≠ 0 ∧
    (indexAt 0xFFFF .fault).index.toNat + (0 : Fin 16).val > 4096 := by decide +kernel

/-- Vector D6's state: the sprite collides with the pixel that is on, and with no pixel of an empty screen. -/
def spriteOverPixel : State := withBytes 0x300 [0xC0] { boot [0xD0, 0x11] with index := 0x300#16, fb := onePixel 1 0 }

theorem witness_DrwFlipsSpriteAndReportsCollision_collisions :
    spriteOverPixel.index.toNat + (1 : Fin 16).val ≤ 4096 ∧ (∃ t, exec (.drw 0 1 1) spriteOverPixel = .next t) ∧
    SpriteCollides spriteOverPixel 0 1 1 ∧ ¬ SpriteCollides { spriteOverPixel with fb := 0#2048 } 0 1 1 := by
  refine ⟨by decide +kernel, ⟨_, rfl⟩, ⟨1, 0, by decide, by decide, ⟨0, 1, by decide +kernel⟩, by decide +kernel⟩, ?_⟩
  rintro ⟨px, py, -, -, -, h⟩
  simp [Framebuffer.pixel] at h

/-- The state after the first draw of vector S6 A. -/
def afterDraw : State := (boot []).afterFetch.showRaster ((boot []).spriteRaster 0 1 5)

theorem witness_DrawTwiceRestoresScreen :
    (boot []).index.toNat + (5 : Fin 16).val ≤ 4096 ∧ exec (.drw 0 1 5) (boot []) = .next afterDraw ∧
    afterDraw.index = (boot []).index ∧ afterDraw.build = (boot []).build ∧
    (∀ k, k < (5 : Fin 16).val →
      afterDraw.readByte ((boot []).index.toNat + k) = (boot []).readByte ((boot []).index.toNat + k)) ∧
    (afterDraw.reg 0).toNat % 64 = ((boot []).reg 0).toNat % 64 ∧
    (afterDraw.reg 1).toNat % 32 = ((boot []).reg 1).toNat % 32 := by
  refine ⟨by decide, rfl, ?_⟩
  simp [afterDraw, regF]

/-! ### Keys and random -/

theorem witness_KeyWaitTakesLowestKey :
    ((State.reset.keySet 15 true).keys[(15 : Fin 16).val] = true ∧
      ∀ j : Fin 16, j < 15 → (State.reset.keySet 15 true).keys[j.val] = false) ∧
    (State.reset.keySet 0 true).keys[(0 : Fin 16).val] = true ∧ ∀ k : Fin 16, State.reset.keys[k.val] = false := by
  decide +kernel

/-! ### Rules about the whole machine -/

/-- A tick changes the framebuffer (vector D11) and sets the redraw flag. -/
theorem witness_OnlyClsAndDrwTouchScreen :
    ∃ t, step { boot [0x00, 0xE0] with fb := onePixel 63 31 } = .next t ∧ t.fb ≠ onePixel 63 31 ∧ t.fault = none :=
  ⟨_, rfl, by decide +kernel, rfl⟩

/-- A tick changes the last byte of memory, under FX33 and under FX55. -/
theorem witness_OnlyTwoInstructionsStore :
    (∃ t, step (withRegs [(5, 9)] { boot [0xF5, 0x33] with index := 0xFFD#16 }) = .next t ∧ t.readByte 0xFFF ≠ 0#8) ∧
    ∃ t, step (withRegs [(15, 9)] { boot [0xFF, 0x55] with index := 0xFF0#16 }) = .next t ∧ t.readByte 0xFFF ≠ 0#8 :=
  ⟨⟨_, rfl, by decide +kernel⟩, ⟨_, rfl, by decide +kernel⟩⟩

/-- A tick changes its destination, and a tick changes VF as a flag. -/
theorem witness_RegistersChangeOnlyAsNamed :
    (∃ t, step (boot [0x60, 0x05]) = .next t ∧ t.reg 0 ≠ (boot [0x60, 0x05]).reg 0) ∧
    ∃ t, step (boot [0x81, 0x25]) = .next t ∧ t.reg 15 ≠ (boot [0x81, 0x25]).reg 15 :=
  ⟨⟨_, rfl, by decide +kernel⟩, ⟨_, rfl, by decide +kernel⟩⟩

/-- Ticks that change the stack, I, DT and ST. -/
theorem witness_SpecialRegistersHaveTheirWriters :
    ticks (boot [0x23, 0x00]) (fun t => t.stack != []) = true ∧
    ticks (boot [0xA2, 0xF0]) (fun t => t.index != 0#16) = true ∧
    ticks (withRegs [(2, 5)] (boot [0xF2, 0x15])) (fun t => t.dt != 0#8) = true ∧
    ticks (withRegs [(2, 5)] (boot [0xF2, 0x18])) (fun t => t.st != 0#8) = true := by decide +kernel

/-- `boot [0x60, 0x05]` runs an instruction that reads neither a timer nor a key. -/
theorem witness_TimerTickCommutesWithTick (x : Reg) :
    ¬ Fetches (boot [0x60, 0x05]) (.ldVxDt x) ∧ ¬ Fetches (boot [0x60, 0x05]) (.ldDtVx x) ∧
    ¬ Fetches (boot [0x60, 0x05]) (.ldStVx x) := by
  unfold Fetches
  revert x
  decide +kernel

theorem witness_KeysReachOnlyKeyInstructions (x : Reg) :
    ¬ Fetches (boot [0x60, 0x05]) (.skp x) ∧ ¬ Fetches (boot [0x60, 0x05]) (.sknp x) ∧
    ¬ Fetches (boot [0x60, 0x05]) (.ldVxK x) := by
  unfold Fetches
  revert x
  decide +kernel

/-! ### The host's transactions and the invariants -/

theorem witness_ParametersStayAndOracleGoesOn :
    (∃ t, transact .reset halted = .next t) ∧ ∃ t, transact .tick (boot [0xC3, 0x0F]) = .next (t, .done) ∧ t.draws = 1 :=
  ⟨⟨_, rfl⟩, ⟨_, rfl, rfl⟩⟩

theorem witness_LoadRomPlacesBytes :
    State.reset.memWf = true ∧ (List.replicate 0xE00 0xFF#8).length ≤ 0xE00 ∧ (List.replicate 0xE01 0xFF#8).length > 0xE00 :=
  ⟨rfl, by rw [List.length_replicate], by rw [List.length_replicate]; decide⟩

theorem witness_BootRunsFirstRomWord :
    ([] : List Byte).length ≤ 0xDFE ∧ (List.replicate 0xDFE 0xFF#8).length ≤ 0xDFE ∧
    decode (BitVec.ofNat 16 ((0x00#8 : Byte).toNat * 256 + (0xE0#8 : Byte).toNat)) = .instruction .cls :=
  ⟨by decide, by rw [List.length_replicate], by decide⟩

/-- A state that meets the invariant at its bounds: a full stack of the highest return addresses and the highest pc. -/
def atBounds : State :=
  { boot [0x60, 0x05] with stack := List.replicate 16 0x1000#16, pc := 0x10FE#16 }

theorem atBounds_inv : atBounds.Inv := by
  refine ⟨by decide +kernel, by decide +kernel, by decide, by decide +kernel, ?_, by decide, ?_⟩
  · intro a ha
    obtain ⟨-, rfl⟩ := List.mem_replicate.1 ha
    decide
  · intro r hr
    cases hr

theorem witness_StepKeepsInvariant : atBounds.Inv ∧ ∃ t, step atBounds = .next t := ⟨atBounds_inv, _, rfl⟩

/-- The largest ROM that fits, over a state at the bounds. -/
theorem witness_TransactionsKeepInvariant :
    atBounds.Inv ∧ ∃ t, transact (.loadRom (List.replicate 0xE00 0xFF#8)) atBounds = .next t :=
  ⟨atBounds_inv, _, rfl⟩

/-- The last glyph and the first. -/
theorem witness_GlyphRowsStandAtI :
    atBounds.Inv ∧ (atBounds.reg 0).toNat = (0 : Fin 16).val ∧
    ∃ s : State, s.Inv ∧ (s.reg 0).toNat = (15 : Fin 16).val :=
  ⟨atBounds_inv, rfl, { atBounds with v := atBounds.v.set 0 0x0F#8 },
    ⟨atBounds_inv.memWf, atBounds_inv.fontIntact, atBounds_inv.buildWf, atBounds_inv.stackBounded,
      atBounds_inv.stackEntries, atBounds_inv.pcBounded, atBounds_inv.faultPrecise⟩, by decide +kernel⟩

theorem witness_ReachableStatesMeetInvariant :
    State.Reachable { State.reset with build := { defaultBuild with stackDepth := 12 }, draws := 3 } :=
  ⟨{ defaultBuild with stackDepth := 12 }, 3, [], by decide, rfl⟩


end Sys2Proof.Tests
end

section
/-! PROOFS. The reset values of 10_state.md R58. RESET is treated from any state (R290), so for every block and every
FONT_TABLE; `State.reset` is the case of the default block. -/

namespace Sys2Proof.Machine

open Sys2Proof.Claims

/-- No pixel of the blank framebuffer is on, whatever the coordinates. -/
@[simp] theorem Framebuffer.pixel_blank (x y : Nat) : Framebuffer.pixel 0#2048 x y = false := BitVec.getLsbD_zero

/-! ### What reads answer after RESET -/

/-- RESET lists no byte, so every address reads as its unlisted byte. -/
@[simp] theorem State.resetBlock_readByte (s : State) (a : Nat) :
    s.resetBlock.readByte a = unlistedByte s.build.fontTable a := rfl

@[simp] theorem State.resetBlock_reg (s : State) (r : Reg) : s.resetBlock.reg r = 0 := Vector.getElem_replicate r.isLt

@[simp] theorem State.resetBlock_key (s : State) (k : Fin 16) : s.resetBlock.keys[k.val] = false :=
  Vector.getElem_replicate k.isLt

/-- RESET leaves the reset state as it is. -/
theorem State.resetBlock_reset : State.reset.resetBlock = State.reset := rfl

/-- RESET gives every element its value of R58's table, from any state and for any FONT_TABLE. -/
theorem State.resetBlock_holdsResetValues (s : State) : HoldsResetValues s.resetBlock := by
  have font : ∀ a (h : a < 80), s.resetBlock.readByte a = s.resetBlock.build.fontTable[a]'h :=
    fun a h => (s.resetBlock_readByte a).trans (unlistedByte_font a h)
  have zeros : ∀ a, 80 ≤ a → a < 4096 → s.resetBlock.readByte a = 0 :=
    fun a h _ => (s.resetBlock_readByte a).trans (unlistedByte_above h)
  have dark : ∀ px py, px < 64 → py < 32 → s.resetBlock.fb.pixel px py = false :=
    fun px py _ _ => Framebuffer.pixel_blank px py
  exact ⟨font, zeros, s.resetBlock_reg, rfl, rfl, rfl, rfl, rfl, dark, rfl, s.resetBlock_key, rfl, rfl⟩

/-- Settles O52: the reset state is its own RESET, which holds R58's values. -/
theorem resetStateHoldsResetValues : Obligations.ResetStateHoldsResetValues := by
  unfold Obligations.ResetStateHoldsResetValues
  rw [← State.resetBlock_reset]
  exact State.resetBlock_holdsResetValues State.reset

end Sys2Proof.Machine
end

section
/-! PROOFS. The fields of a word (30_encoding.md R101) and the unrecognised words (R108 to R112). Each dispatch of `decode`
gets one lemma that says which words it refuses; a refused word is answered with itself, so the lemmas speak of any
answer `.unrecognised w'`. -/

namespace Sys2Proof

open Sys2Proof.Claims

/-! ### A field has a value exactly when the word's number says so -/

theorem fieldOp_eq_iff (w : Word) (f : BitVec 4) : fieldOp w = f ↔ w.toNat / 4096 = f.toNat := by
  rw [← BitVec.toNat_inj, fieldOp_toNat]

theorem fieldFn_eq_iff (w : Word) (f : BitVec 4) : fieldFn w = f ↔ w.toNat % 16 = f.toNat := by
  rw [← BitVec.toNat_inj, fieldFn_toNat]

theorem fieldNN_eq_iff (w : Word) (b : Byte) : fieldNN w = b ↔ w.toNat % 256 = b.toNat := by
  rw [← BitVec.toNat_inj, fieldNN_toNat]

/-! ### The secondary dispatches -/

/-- A dispatch on one check refuses, with the word itself, exactly when the check fails. -/
theorem ite_unrecognised_iff {c : Prop} [Decidable c] (i : Instr) (w w' : Word) :
    (if c then Decoded.instruction i else .unrecognised w) = .unrecognised w' ↔ w = w' ∧ ¬ c := by
  by_cases h : c <;> simp [h]

/-- R108: family 0 refuses every word but those of CLS and RET. -/
theorem decode0_unrecognised_iff (w w' : Word) :
    decode0 w = .unrecognised w' ↔ w = w' ∧ w.toNat ≠ 0x00E0 ∧ w.toNat ≠ 0x00EE := by
  unfold decode0
  by_cases h : w = 0x00E0#16
  · simp [h]
  · have hn : w.toNat ≠ 0x00E0 := fun e => h (BitVec.eq_of_toNat_eq e)
    simp [h, hn, ite_unrecognised_iff, ← BitVec.toNat_inj]

/-- R110: family 8 refuses the low nibbles that are no operation. -/
theorem decode8_unrecognised_iff (w w' : Word) :
    decode8 w = .unrecognised w' ↔ w = w' ∧ w.toNat % 16 ∈ [0x8, 0x9, 0xA, 0xB, 0xC, 0xD, 0xF] := by
  unfold decode8
  split
  case h_10 h0 h1 h2 h3 h4 h5 h6 h7 hE =>
    have hfn : w.toNat % 16 ∈ [0x8, 0x9, 0xA, 0xB, 0xC, 0xD, 0xF] := by
      simp only [imp_false, fieldFn_eq_iff, BitVec.toNat_ofNat] at h0 h1 h2 h3 h4 h5 h6 h7 hE
      simp only [List.mem_cons, List.not_mem_nil]
      omega
    simp [hfn]
  all_goals simp_all [fieldFn_eq_iff]

/-- R111: family E refuses every low byte but those of SKP and SKNP. -/
theorem decodeE_unrecognised_iff (w w' : Word) :
    decodeE w = .unrecognised w' ↔ w = w' ∧ w.toNat % 256 ∉ [0x9E, 0xA1] := by
  unfold decodeE
  split <;> simp_all [fieldNN_eq_iff]

/-- R111: family F refuses every low byte but the nine it lists. -/
theorem decodeF_unrecognised_iff (w w' : Word) :
    decodeF w = .unrecognised w' ↔
      w = w' ∧ w.toNat % 256 ∉ [0x07, 0x0A, 0x15, 0x18, 0x1E, 0x29, 0x33, 0x55, 0x65] := by
  unfold decodeF
  split <;> simp_all [fieldNN_eq_iff]

/-! ### The whole decoder -/

/-- The number of a word that R108 to R111 refuse, family by family. -/
def UnrecognisedNumber (n : Nat) : Prop :=
  (n / 4096 = 0x0 ∧ n ≠ 0x00E0 ∧ n ≠ 0x00EE) ∨
  ((n / 4096 = 0x5 ∨ n / 4096 = 0x9) ∧ n % 16 ≠ 0) ∨
  (n / 4096 = 0x8 ∧ n % 16 ∈ [0x8, 0x9, 0xA, 0xB, 0xC, 0xD, 0xF]) ∨
  (n / 4096 = 0xE ∧ n % 256 ∉ [0x9E, 0xA1]) ∨
  (n / 4096 = 0xF ∧ n % 256 ∉ [0x07, 0x0A, 0x15, 0x18, 0x1E, 0x29, 0x33, 0x55, 0x65])

/-- R112: the decoder refuses exactly the words of R108 to R111, and answers each with itself. -/
theorem decode_unrecognised_iff (w w' : Word) :
    decode w = .unrecognised w' ↔ w = w' ∧ UnrecognisedNumber w.toNat := by
  unfold decode UnrecognisedNumber
  split
  case h_16 h0 h1 h2 h3 h4 h5 h6 h7 h8 h9 hA hB hC hD hE =>
    have hop := (fieldOp_eq_iff w _).1 (nibble_eq_F h0 h1 h2 h3 h4 h5 h6 h7 h8 h9 hA hB hC hD hE)
    simp [hop, decodeF_unrecognised_iff]
  all_goals
    rename_i hf
    have hop := (fieldOp_eq_iff w _).1 hf
    simp [hop, decode0_unrecognised_iff, decode8_unrecognised_iff, decodeE_unrecognised_iff, ite_unrecognised_iff,
      fieldFn_eq_iff]

/-- The claims' word of four numbers is the pack of the four fields (R101). -/
theorem wordXY_eq_packXY (op : BitVec 4) (x y : Reg) (fn : BitVec 4) :
    wordXY op.toNat x.val y.val fn.toNat = packXY op x y fn := (packXY_eq_ofNat op x y fn).symm

/-- Family D has no secondary field, so the low nibble is the row count, 0 included (R112). -/
theorem decode_packXY_drw (x y : Reg) (fn : BitVec 4) :
    decode (packXY 0xD#4 x y fn) = .instruction (.drw x y (nibbleNumber fn)) := by
  have hN : fieldN (packXY 0xD#4 x y fn) = nibbleNumber fn := fieldN_packXY 0xD#4 x y (nibbleNumber fn)
  simp [decode, hN]

/-- Settles O5: the decoder family by family, DXY0 as the row of DRW with N = 0, and the two words of family 0. -/
theorem unrecognisedWordsAreThese : Obligations.UnrecognisedWordsAreThese := by
  unfold Obligations.UnrecognisedWordsAreThese
  refine ⟨fun w w' h => ((decode_unrecognised_iff w w').1 h).1.symm, fun w => ?_, fun x y => ?_, rfl, rfl⟩
  · exact (decode_unrecognised_iff w w).trans (and_iff_right rfl)
  · exact wordXY_eq_packXY 0xD#4 x y 0x0#4 ▸ decode_packXY_drw x y 0x0#4

/-- Settles O6: each field as arithmetic on the word's number. -/
theorem fieldsAreTheWordsNibbles : Obligations.FieldsAreTheWordsNibbles := by
  unfold Obligations.FieldsAreTheWordsNibbles
  exact fun w => ⟨fieldOp_toNat w, fieldX_val w, fieldY_val w, fieldN_val w, fieldFn_toNat w, fieldNN_toNat w,
    fieldNNN_toNat w⟩

end Sys2Proof
end

section
/-! PROOFS. The tick (40_cycle.md R130 to R139): the checks before the fetch one fault kind at a time, the fetched word in
the statements' arithmetic, and what a tick in RUN can do: raise one fault, or run the one instruction it fetched. -/

namespace Sys2Proof.Machine

open Sys2Proof.Claims

/-! ### The checks before the fetch -/

/-- R131: the first check fails exactly when no ROM is loaded, whatever pc is. -/
theorem fetchCheck_eq_missingRom {s : State} : s.fetchCheck = some .missingRom ↔ s.romLoaded = false := by
  unfold State.fetchCheck
  cases s.romLoaded <;> simp

/-- R132: the second check fails exactly when a ROM is loaded and pc is past the last word. -/
theorem fetchCheck_eq_fetchOutOfBounds {s : State} :
    s.fetchCheck = some .fetchOutOfBounds ↔ s.romLoaded = true ∧ s.pc.toNat > 0xFFE := by
  unfold State.fetchCheck
  cases s.romLoaded <;> simp

/-! ### The fetched word -/

/-- The model's fetched word is the statements' `mem[pc]*256 + mem[pc+1]` (R133, 20_memory.md R85). -/
theorem fetchWord_eq_ofNat (s : State) : s.fetchWord = BitVec.ofNat 16 (fetchedNumber s) := wordOfBytes_eq_ofNat _ _

/-- `Fetches` in the model's own words: RUN, the checks pass, and the fetched word decodes to the instruction. -/
theorem fetches_iff {s : State} {i : Instr} :
    Fetches s i ↔ s.fault = none ∧ s.fetchCheck = none ∧ decode s.fetchWord = .instruction i := by
  rw [Fetches, fetchCheck_eq_none, fetchWord_eq_ofNat, and_assoc]

/-! ### What a tick can do -/

/-- Inversion of `exec_effect`: the state an execution answers is a raised fault or the instruction's effect. -/
theorem exec_cases {i : Instr} {s t : State} (h : exec i s = .next t) :
    (∃ kind, t = s.raise kind (some (encode i))) ∨ Effect i s t := by
  obtain ⟨t', ht', hcases⟩ := exec_effect i s
  cases ht'.symm.trans h
  exact hcases

/-- No tick stops the machine (log 6). -/
theorem step_answers_next (s : State) : ∃ t, step s = .next t := by
  by_cases hf : s.fault = none
  · cases hc : s.fetchCheck with
    | some kind => exact ⟨_, step_fetchCheck hf hc⟩
    | none =>
      rw [step_fetched hf hc]
      cases decode s.fetchWord with
      | unrecognised w => exact ⟨_, rfl⟩
      | instruction i =>
        obtain ⟨t, ht, -⟩ := exec_effect i s
        exact ⟨t, ht⟩
  · exact ⟨s, step_halted hf⟩

/-- A tick in RUN raises one fault in the state it began in, or fetches one instruction and has that one's effect. -/
theorem step_raises_or_runs {s t : State} (hf : s.fault = none) (h : step s = .next t) :
    (∃ kind w, t = s.raise kind w) ∨ ∃ i, Fetches s i ∧ exec i s = .next t ∧ Effect i s t := by
  obtain ⟨hhalted, -⟩ | ⟨-, kind, -, ht⟩ | ⟨-, -, w, -, ht⟩ | ⟨-, hc, i, hi, hexec⟩ := step_cases h
  · exact absurd hf hhalted
  · exact .inl ⟨kind, none, ht⟩
  · exact .inl ⟨.unknownOpcode, some w, ht⟩
  · obtain ⟨kind, ht⟩ | heffect := exec_cases hexec
    · exact .inl ⟨kind, some (encode i), ht⟩
    · exact .inr ⟨i, fetches_iff.2 ⟨hf, hc, hi⟩, hexec, heffect⟩

/-! ### The statements about the tick -/

/-- Settles O13: raising keeps every element but the record, and an instruction's effect records no fault. -/
theorem faultingTickChangesOnlyRecord : Obligations.FaultingTickChangesOnlyRecord := by
  unfold Obligations.FaultingTickChangesOnlyRecord
  intro s t r hf hstep hr
  obtain ⟨kind, w, rfl⟩ | ⟨i, -, -, heffect⟩ := step_raises_or_runs hf hstep
  · cases hr
    exact ⟨rfl, rfl⟩
  · obtain ⟨hkeeps, -⟩ := effect_keeps heffect
    simp [hkeeps, hf] at hr

/-- Settles O15: a state in HALTED keeps its record and a raise sets one, so without a fault an instruction ran. -/
theorem everyTickReturns : Obligations.EveryTickReturns := by
  unfold Obligations.EveryTickReturns
  intro s
  obtain ⟨t, hstep⟩ := step_answers_next s
  refine ⟨t, hstep, fun ht => ?_⟩
  by_cases hf : s.fault = none
  · obtain ⟨kind, w, rfl⟩ | ⟨i, hfetch, hexec, -⟩ := step_raises_or_runs hf hstep
    · simp at ht
    · exact ⟨i, hfetch, hexec⟩
  · cases (step_halted hf).symm.trans hstep
    exact absurd ht hf

/-- Settles O9: no other check comes before the one of rom_loaded. -/
theorem missingRomBeforeAnyFetch : Obligations.MissingRomBeforeAnyFetch := by
  unfold Obligations.MissingRomBeforeAnyFetch
  exact fun _ hf hrom => step_fetchCheck hf (fetchCheck_eq_missingRom.2 hrom)

/-- Settles O10: with a ROM loaded the check of pc is the one that fails. -/
theorem fetchPastMemoryFaults : Obligations.FetchPastMemoryFaults := by
  unfold Obligations.FetchPastMemoryFaults
  exact fun _ hf hrom hpc => step_fetchCheck hf (fetchCheck_eq_fetchOutOfBounds.2 ⟨hrom, hpc⟩)

/-- Settles O11: the checks pass, so the decoder's answer to the fetched word decides the tick. -/
theorem unrecognisedWordFaults : Obligations.UnrecognisedWordFaults := by
  unfold Obligations.UnrecognisedWordFaults
  intro s w hf hrom hpc hw hdecode
  rw [step_fetched hf (fetchCheck_eq_none.2 ⟨hrom, hpc⟩), fetchWord_eq_ofNat, ← hw, hdecode]
  rfl

end Sys2Proof.Machine
end

section
/-! PROOFS. Control transfer (41_control_flow.md R150 to R153). A frame is composed from the frames of the shared
operations that a meaning chains; CALL and RET get one equation for each case of the stack. -/

namespace Sys2Proof.Machine

open Sys2Proof.Claims

/-! ### Frames of the shared operations, and their composition -/

theorem same_trans {s t u : State} {e : Elem} (hst : Same s t e) (htu : Same t u e) : Same s u e := by
  cases e <;> exact Eq.trans htu hst

theorem onlyChanges_trans {may : Elem → Prop} {s t u : State} (hst : OnlyChanges may s t)
    (htu : OnlyChanges may t u) : OnlyChanges may s u :=
  fun e he => same_trans (hst e he) (htu e he)

theorem onlyChanges_jumpTo {may : Elem → Prop} (hpc : may .pc) (w : Word) (s : State) :
    OnlyChanges may s (s.jumpTo w) := by
  intro e he
  cases e with
  | pc => exact absurd hpc he
  | _ => simp [Same]

/-- The fetch is the jump to `pc + 2`. -/
theorem onlyChanges_afterFetch {may : Elem → Prop} (hpc : may .pc) (s : State) : OnlyChanges may s s.afterFetch :=
  onlyChanges_jumpTo hpc (s.pc + 2#16) s

theorem onlyChanges_setStack {may : Elem → Prop} (hstack : may .stack) (entries : List Word) (s : State) :
    OnlyChanges may s (s.setStack entries) := by
  intro e he
  cases e with
  | stack => exact absurd hstack he
  | _ => simp [Same]

/-- The frame of JP and JP V0: the jump overwrites the advanced pc. -/
theorem onlyChanges_jump (w : Word) (s : State) : OnlyChanges (among [.pc]) s (s.afterFetch.jumpTo w) :=
  have hpc : among [.pc] .pc := by simp [among]
  onlyChanges_trans (onlyChanges_afterFetch hpc s) (onlyChanges_jumpTo hpc w _)

/-- The frame of CALL and RET: other stack contents, then a jump. -/
theorem onlyChanges_stackJump (entries : List Word) (w : Word) (s : State) :
    OnlyChanges (among [.pc, .stack]) s ((s.afterFetch.setStack entries).jumpTo w) :=
  have hpc : among [.pc, .stack] .pc := by simp [among]
  have hstack : among [.pc, .stack] .stack := by simp [among]
  onlyChanges_trans (onlyChanges_afterFetch hpc s)
    (onlyChanges_trans (onlyChanges_setStack hstack entries _) (onlyChanges_jumpTo hpc w _))

/-! ### The words -/

/-- The claims' word of op and NNN is the pack of the two fields (R101). -/
theorem wordNNN_eq_packNNN (op : BitVec 4) (nnn : Addr12) : wordNNN op.toNat nnn.toNat = packNNN op nnn :=
  (packNNN_eq_ofNat op nnn).symm

theorem encodes_wordNNN {op : BitVec 4} {nnn : Addr12} {i : Instr} (h : decode (packNNN op nnn) = .instruction i) :
    Encodes (wordNNN op.toNat nnn.toNat) i := by
  rw [Encodes, wordNNN_eq_packNNN, h]

theorem encodes_jp (nnn : Addr12) : Encodes (wordNNN 0x1 nnn.toNat) (.jp nnn) :=
  encodes_wordNNN (op := 0x1#4) (by simp [decode])

theorem encodes_call (nnn : Addr12) : Encodes (wordNNN 0x2 nnn.toNat) (.call nnn) :=
  encodes_wordNNN (op := 0x2#4) (by simp [decode])

theorem encodes_jpV0 (nnn : Addr12) : Encodes (wordNNN 0xB nnn.toNat) (.jpV0 nnn) :=
  encodes_wordNNN (op := 0xB#4) (by simp [decode])

/-! ### The meanings, one equation a case -/

/-- R152 with room on the stack: the pushed address is the advanced pc. -/
theorem exec_call_of_room (nnn : Addr12) {s : State} (h : s.stack.length < s.build.stackDepth) :
    exec (.call nnn) s = .next ((s.afterFetch.setStack ((s.pc + 2) :: s.stack)).jumpTo (zextAddr nnn)) := by
  have hpush : s.afterFetch.push s.afterFetch.pc = some (s.afterFetch.setStack ((s.pc + 2) :: s.stack)) :=
    push_eq_some.2 ⟨h, rfl⟩
  simp only [exec, execCall, hpush]

/-- R152 on a full stack. -/
theorem exec_call_of_full (nnn : Addr12) {s : State} (h : s.build.stackDepth ≤ s.stack.length) :
    exec (.call nnn) s = raiseIn (.call nnn) .stackOverflow s := by
  have hpush : s.afterFetch.push s.afterFetch.pc = none := push_eq_none.2 h
  simp only [exec, execCall, hpush]

/-- R150 on a stack with a top entry. -/
theorem exec_ret_of_cons {s : State} {a : Word} {rest : List Word} (h : s.stack = a :: rest) :
    exec .ret s = .next ((s.afterFetch.setStack rest).jumpTo a) := by
  have hpop : s.afterFetch.pop = some (a, s.afterFetch.setStack rest) := pop_eq_some.2 ⟨rest, h, rfl⟩
  simp only [exec, execRet, hpop]

/-- R150 on an empty stack. -/
theorem exec_ret_of_nil {s : State} (h : s.stack = []) : exec .ret s = raiseIn .ret .stackUnderflow s := by
  have hpop : s.afterFetch.pop = none := pop_eq_none.2 h
  simp only [exec, execRet, hpop]

/-! ### The target of JP V0 -/

/-- R153's offset register: X is the high nibble of NNN. -/
theorem jumpOffset_eq {nnn : Addr12} {x : Reg} (s : State) (hx : x.val = nnn.toNat / 256) :
    s.jumpOffset nnn = if s.build.jumpOffsetUsesVx then s.reg x else s.reg 0 := by
  have hnibble : nibbleNumber (nnn.extractLsb' 8 4) = x := by
    have := nnn.isLt
    apply Fin.ext
    simp only [nibbleNumber, BitVec.val_toFin, BitVec.extractLsb'_toNat, Nat.shiftRight_eq_div_pow]
    omega
  rw [State.jumpOffset, hnibble, reg0]

/-- The sum of R153 does not wrap: it is at most 0xFFF + 0xFF. -/
theorem zextAddr_add_zextByte_toNat (nnn : Addr12) (b : Byte) :
    (zextAddr nnn + zextByte b).toNat = nnn.toNat + b.toNat := by
  have := nnn.isLt
  have := b.isLt
  rw [BitVec.toNat_add, zextAddr_toNat, zextByte_toNat]
  omega

/-! ### The statements about control transfer -/

/-- Settles O17: JP is the fetch and a jump. -/
theorem jpSetsPc : Obligations.JpSetsPc := by
  unfold Obligations.JpSetsPc
  exact fun nnn s => ⟨encodes_jp nnn, _, rfl, onlyChanges_jump (zextAddr nnn) s, zextAddr_toNat nnn⟩

/-- Settles O18: JP V0 jumps to the exact sum. -/
theorem jpV0AddsOffset : Obligations.JpV0AddsOffset := by
  unfold Obligations.JpV0AddsOffset
  intro nnn x s hx
  rw [← jumpOffset_eq s hx]
  exact ⟨encodes_jpV0 nnn, _, rfl, onlyChanges_jump _ s, zextAddr_add_zextByte_toNat nnn _⟩

/-- Settles O19: the two cases of the push. -/
theorem callPushesReturnAddress : Obligations.CallPushesReturnAddress := by
  unfold Obligations.CallPushesReturnAddress
  refine fun nnn s => ⟨encodes_call nnn, fun hroom => ?_, fun hfull => exec_call_of_full nnn hfull.ge⟩
  exact ⟨_, exec_call_of_room nnn hroom, onlyChanges_stackJump _ _ s, zextAddr_toNat nnn, rfl⟩

/-- Settles O20: the two cases of the pop. -/
theorem retPopsReturnAddress : Obligations.RetPopsReturnAddress := by
  unfold Obligations.RetPopsReturnAddress
  refine fun s => ⟨rfl, fun a rest hstack => ?_, exec_ret_of_nil⟩
  exact ⟨_, exec_ret_of_cons hstack, onlyChanges_stackJump rest a s, rfl, rfl⟩

end Sys2Proof.Machine
end

section
/-! PROOFS. The conditional skips (42_skips.md R160 to R167). Every skip is the fetch and `skipIf`, so one rule gives its
frame and its two widths; the key skips get one equation for each answer of `digitOf`. -/

namespace Sys2Proof.Machine

open Sys2Proof.Claims

/-! ### The shared skip (R160) -/

/-- A skip that is taken is a jump over one more word. -/
theorem onlyChanges_skipIf {may : Elem → Prop} (hpc : may .pc) (c : Bool) (s : State) :
    OnlyChanges may s (s.skipIf c) := by
  cases c with
  | false => exact fun e _ => by cases e <;> rfl
  | true => exact onlyChanges_jumpTo hpc (s.pc + 2#16) s

theorem onlyChanges_skip (c : Bool) (s : State) : OnlyChanges (among [.pc]) s (s.afterFetch.skipIf c) :=
  have hpc : among [.pc] .pc := by simp [among]
  onlyChanges_trans (onlyChanges_afterFetch hpc s) (onlyChanges_skipIf hpc c _)

theorem skipIf_afterFetch_pc (c : Bool) (s : State) :
    (s.afterFetch.skipIf c).pc = s.pc + (if c then 4 else 2) := by
  cases c with
  | false => rfl
  | true => exact BitVec.add_assoc s.pc 2#16 2#16

section
variable {i : Instr} {s : State} {c : Bool} {P : Prop} [Decidable P]

/-- R160 for an instruction that skips when `P` holds. -/
theorem runs_skip_when (hc : c = true ↔ P) (hexec : exec i s = .next (s.afterFetch.skipIf c)) :
    Runs i s (among [.pc]) (fun t => t.pc = s.pc + (if P then 4 else 2)) := by
  refine ⟨_, hexec, onlyChanges_skip c s, ?_⟩
  simp only [skipIf_afterFetch_pc, hc]

/-- R160 for an instruction that skips unless `P` holds. -/
theorem runs_skip_unless (hc : c = true ↔ ¬ P) (hexec : exec i s = .next (s.afterFetch.skipIf c)) :
    Runs i s (among [.pc]) (fun t => t.pc = s.pc + (if P then 2 else 4)) := by
  simpa only [ite_not] using runs_skip_when hc hexec

end

/-! ### The words -/

/-- The claims' word of op, X and the low byte is the pack of the three fields (R101). -/
theorem wordXNN_eq_packXNN (op : BitVec 4) (x : Reg) (nn : Byte) :
    wordXNN op.toNat x.val nn.toNat = packXNN op x nn := (packXNN_eq_ofNat op x nn).symm

theorem encodes_wordXNN {op : BitVec 4} {x : Reg} {nn : Byte} {i : Instr}
    (h : decode (packXNN op x nn) = .instruction i) : Encodes (wordXNN op.toNat x.val nn.toNat) i := by
  rw [Encodes, wordXNN_eq_packXNN, h]

theorem encodes_wordXY {op : BitVec 4} {x y : Reg} {fn : BitVec 4} {i : Instr}
    (h : decode (packXY op x y fn) = .instruction i) : Encodes (wordXY op.toNat x.val y.val fn.toNat) i := by
  rw [Encodes, wordXY_eq_packXY, h]

theorem encodes_seImm (x : Reg) (nn : Byte) : Encodes (wordXNN 0x3 x.val nn.toNat) (.seImm x nn) :=
  encodes_wordXNN (op := 0x3#4) (by simp [decode])

theorem encodes_sneImm (x : Reg) (nn : Byte) : Encodes (wordXNN 0x4 x.val nn.toNat) (.sneImm x nn) :=
  encodes_wordXNN (op := 0x4#4) (by simp [decode])

theorem encodes_seReg (x y : Reg) : Encodes (wordXY 0x5 x.val y.val 0) (.seReg x y) :=
  encodes_wordXY (op := 0x5#4) (fn := 0x0#4) (by simp [decode])

theorem encodes_sneReg (x y : Reg) : Encodes (wordXY 0x9 x.val y.val 0) (.sneReg x y) :=
  encodes_wordXY (op := 0x9#4) (fn := 0x0#4) (by simp [decode])

theorem encodes_skp (x : Reg) : Encodes (wordXNN 0xE x.val 0x9E) (.skp x) :=
  encodes_wordXNN (op := 0xE#4) (nn := 0x9E#8) (by simp [decode, decodeE])

theorem encodes_sknp (x : Reg) : Encodes (wordXNN 0xE x.val 0xA1) (.sknp x) :=
  encodes_wordXNN (op := 0xE#4) (nn := 0xA1#8) (by simp [decode, decodeE])

/-! ### The key skips, one equation a case -/

/-- R165 on a key number. -/
theorem exec_skp_of_key {x : Reg} {s : State} {k : Fin 16} (h : (s.reg x).toNat = k.val) :
    exec (.skp x) s = .next (s.afterFetch.skipIf (s.keyDown k)) := by
  simp only [exec, execSkp, digitOf_eq_some.2 h]

/-- R166 on a key number. -/
theorem exec_sknp_of_key {x : Reg} {s : State} {k : Fin 16} (h : (s.reg x).toNat = k.val) :
    exec (.sknp x) s = .next (s.afterFetch.skipIf (!s.keyDown k)) := by
  simp only [exec, execSknp, digitOf_eq_some.2 h]

/-- R167 for EX9E. -/
theorem exec_skp_of_large {x : Reg} {s : State} (h : (s.reg x).toNat > 0x0F) :
    exec (.skp x) s = raiseIn (.skp x) .operandOutOfRange s := by
  simp only [exec, execSkp, digitOf_eq_none.2 h]

/-- R167 for EXA1. -/
theorem exec_sknp_of_large {x : Reg} {s : State} (h : (s.reg x).toNat > 0x0F) :
    exec (.sknp x) s = raiseIn (.sknp x) .operandOutOfRange s := by
  simp only [exec, execSknp, digitOf_eq_none.2 h]

/-! ### The statements about the skips -/

/-- Settles O22: the four comparisons are two that skip when the operands are equal and two that skip unless they are. -/
theorem comparingSkips : Obligations.ComparingSkips := by
  unfold Obligations.ComparingSkips
  intro x y nn s
  refine ⟨⟨encodes_seImm x nn, ?_⟩, ⟨encodes_sneImm x nn, ?_⟩, ⟨encodes_seReg x y, ?_⟩, ⟨encodes_sneReg x y, ?_⟩⟩
  · exact runs_skip_when decide_eq_true_iff rfl
  · exact runs_skip_unless decide_eq_true_iff rfl
  · exact runs_skip_when decide_eq_true_iff rfl
  · exact runs_skip_unless decide_eq_true_iff rfl

/-- Settles O23: VX is a key number, whose key decides the skip, or it is too large and the fault is raised. -/
theorem keySkips : Obligations.KeySkips := by
  unfold Obligations.KeySkips
  refine fun x s => ⟨encodes_skp x, encodes_sknp x, fun k hk => ⟨?_, ?_⟩, fun hlarge => ⟨?_, ?_⟩⟩
  · exact runs_skip_when Iff.rfl (exec_skp_of_key hk)
  · exact runs_skip_unless (by simp [State.keyDown]) (exec_sknp_of_key hk)
  · exact exec_skp_of_large hlarge
  · exact exec_sknp_of_large hlarge

end Sys2Proof.Machine
end

section
/-! PROOFS. Register loads and 8-bit arithmetic and logic (43_registers_alu.md R170 to R181). There are three endings: one
register is written, a result and then the flag, a logic result. Each gets its frame and one rule that gives `Runs`; what
an instruction computes is said of the bytes alone. -/

namespace Sys2Proof.Machine

open Sys2Proof.Claims

/-! ### Frames of the register writes -/

theorem onlyChanges_setReg {may : Elem → Prop} {x : Reg} (hx : may (.reg x)) (b : Byte) (s : State) :
    OnlyChanges may s (s.setReg x b) := by
  intro e he
  cases e with
  | reg y =>
    have hne : y ≠ x := by
      rintro rfl
      exact he hx
    simp [Same, hne]
  | _ => simp [Same]

/-- The frame of a result and its flag is that of the two writes. -/
theorem onlyChanges_setRegThenFlag {may : Elem → Prop} {x : Reg} (hx : may (.reg x)) (hflag : may (.reg 15))
    (b f : Byte) (s : State) : OnlyChanges may s (s.setRegThenFlag x b f) :=
  onlyChanges_trans (onlyChanges_setReg hx b s) (onlyChanges_setReg hflag f _)

/-- The frame of a logic result: VF is written only under LOGIC_RESETS_VF. -/
theorem onlyChanges_setLogicResult {may : Elem → Prop} {x : Reg} {s : State} (hx : may (.reg x))
    (hflag : s.build.logicResetsVf = true → may (.reg 15)) (b : Byte) : OnlyChanges may s (s.setLogicResult x b) := by
  unfold State.setLogicResult
  split
  case isTrue hreset => exact onlyChanges_setRegThenFlag hx (hflag hreset) b 0#8 s
  case isFalse => exact onlyChanges_setReg hx b s

/-! ### One rule for each ending

A result is judged through `view`, the reading of a byte in which the statement gives it. -/

section
variable {i : Instr} {s : State} {x : Reg} {b f : Byte} {α : Type} {a : α}

/-- An instruction that writes VX alone. -/
theorem runs_setReg (view : Byte → α) (hexec : exec i s = .next (s.afterFetch.setReg x b)) (hb : view b = a) :
    Runs i s (among [.reg x, .pc]) (fun t => view (t.reg x) = a ∧ t.pc = s.pc + 2) := by
  have hframe : OnlyChanges (among [.reg x, .pc]) s (s.afterFetch.setReg x b) :=
    onlyChanges_trans (onlyChanges_afterFetch (by simp [among]) s) (onlyChanges_setReg (by simp [among]) b _)
  exact ⟨_, hexec, hframe, by simp [hb], rfl⟩

/-- R170 (c): VX first, then VF, so the flag stands also when X = F. -/
theorem runs_setRegThenFlag {flag : Nat} (view : Byte → α)
    (hexec : exec i s = .next (s.afterFetch.setRegThenFlag x b f)) (hb : view b = a) (hf : f.toNat = flag) :
    Runs i s (among [.reg x, .reg 15, .pc])
      (fun t => t.pc = s.pc + 2 ∧ (x ≠ 15 → view (t.reg x) = a) ∧ (t.reg 15).toNat = flag) := by
  have hframe : OnlyChanges (among [.reg x, .reg 15, .pc]) s (s.afterFetch.setRegThenFlag x b f) :=
    onlyChanges_trans (onlyChanges_afterFetch (by simp [among]) s)
      (onlyChanges_setRegThenFlag (by simp [among]) (by simp [among]) b f _)
  refine ⟨_, hexec, hframe, rfl, fun hx => ?_, ?_⟩
  · simp [regF, hx, hb]
  · simp [regF, hf]

/-- R174 to R176: VX takes the bits, and VF is cleared under LOGIC_RESETS_VF only. -/
theorem runs_setLogicResult {bits : Nat → Bool} (hexec : exec i s = .next (s.afterFetch.setLogicResult x b))
    (hbits : ∀ k, b.getLsbD k = bits k) :
    Runs i s (among (if s.build.logicResetsVf then [.reg x, .reg 15, .pc] else [.reg x, .pc]))
      (fun t => t.pc = s.pc + 2 ∧ (s.build.logicResetsVf = true → t.reg 15 = 0) ∧
        ((s.build.logicResetsVf = true ∧ x = 15) ∨ ∀ k, k < 8 → (t.reg x).getLsbD k = bits k)) := by
  refine ⟨_, hexec, ?frame, by simp, fun hreset => by simp [regF, hreset], ?bits⟩
  case frame =>
    refine onlyChanges_trans (onlyChanges_afterFetch ?_ s) (onlyChanges_setLogicResult ?_ ?_ b)
    · split <;> simp [among]
    · split <;> simp [among]
    · intro hreset
      rw [State.afterFetch_build] at hreset
      simp [among, hreset]
  case bits =>
    by_cases hover : s.build.logicResetsVf = true ∧ x = 15
    · exact .inl hover
    · have hx : (s.afterFetch.setLogicResult x b).reg x = b := by
        simp [regF, and_comm, hover]
      exact .inr fun k _ => by rw [hx, hbits]

end

/-! ### The values -/

/-- R170 (a): a difference reduced modulo 256. -/
theorem byte_sub_toInt (a b : Byte) : ((a - b).toNat : Int) = (a.toNat - b.toNat : Int) % 256 := by
  have := a.isLt
  have := b.isLt
  rw [BitVec.toNat_sub]
  omega

theorem shiftRight_one_toNat (src : Byte) : (src >>> 1).toNat = src.toNat / 2 := by
  rw [BitVec.toNat_ushiftRight, Nat.shiftRight_one]

theorem shiftLeft_one_toNat (src : Byte) : (src <<< 1).toNat = src.toNat * 2 % 256 := by
  rw [BitVec.toNat_shiftLeft, Nat.shiftLeft_eq]

@[simp] theorem carryFlag_toNat (vx vy : Byte) :
    (carryFlag vx vy).toNat = if vx.toNat + vy.toNat > 255 then 1 else 0 := by
  simp only [carryFlag, flagByte_toNat, decide_eq_true_eq]

@[simp] theorem notBorrowFlag_toNat (minuend subtrahend : Byte) :
    (notBorrowFlag minuend subtrahend).toNat = if minuend.toNat ≥ subtrahend.toNat then 1 else 0 := by
  simp only [notBorrowFlag, flagByte_toNat, decide_eq_true_eq]

@[simp] theorem shiftedOutRight_toNat (src : Byte) : (shiftedOutRight src).toNat = src.toNat % 2 :=
  (BitVec.toNat_and src 1#8).trans (Nat.and_one_is_mod src.toNat)

@[simp] theorem shiftedOutLeft_toNat (src : Byte) : (shiftedOutLeft src).toNat = src.toNat / 128 := by
  rw [shiftedOutLeft, BitVec.toNat_ushiftRight, Nat.shiftRight_eq_div_pow]

/-! ### The words -/

/-- A word of family 8 is decided by its low nibble (R110). -/
theorem encodes_family8 {x y : Reg} {i : Instr} (fn : BitVec 4) (h : decode8 (packXY 0x8#4 x y fn) = .instruction i) :
    Encodes (wordXY 0x8 x.val y.val fn.toNat) i :=
  encodes_wordXY (op := 0x8#4) (by simpa [decode] using h)

/-! ### The statements about register loads, arithmetic and logic -/

/-- Settles O27: the sum reduced and the carry of the exact sum. -/
theorem addRegSumAndCarry : Obligations.AddRegSumAndCarry := by
  unfold Obligations.AddRegSumAndCarry
  refine fun x y s => ⟨encodes_family8 0x4#4 (by simp [decode8]), ?_⟩
  exact runs_setRegThenFlag BitVec.toNat rfl (BitVec.toNat_add _ _) (carryFlag_toNat _ _)

/-- Settles O28: both subtractions are one difference and one NOT-borrow, with the operands exchanged. -/
theorem subtractAndNotBorrow : Obligations.SubtractAndNotBorrow := by
  unfold Obligations.SubtractAndNotBorrow
  refine fun x y s => ⟨⟨encodes_family8 0x5#4 (by simp [decode8]), ?_⟩, encodes_family8 0x7#4 (by simp [decode8]), ?_⟩
  · exact runs_setRegThenFlag (fun b => (b.toNat : Int)) rfl (byte_sub_toInt _ _) (notBorrowFlag_toNat _ _)
  · exact runs_setRegThenFlag (fun b => (b.toNat : Int)) rfl (byte_sub_toInt _ _) (notBorrowFlag_toNat _ _)

/-- Settles O29: the statement's source is the model's `shiftSource`. -/
theorem shiftsAndBitOut : Obligations.ShiftsAndBitOut := by
  unfold Obligations.ShiftsAndBitOut
  intro x y s src hsrc
  obtain rfl : src = s.shiftSource x y := hsrc
  refine ⟨⟨encodes_family8 0x6#4 (by simp [decode8]), ?_⟩, encodes_family8 0xE#4 (by simp [decode8]), ?_⟩
  · exact runs_setRegThenFlag BitVec.toNat rfl (shiftRight_one_toNat _) (shiftedOutRight_toNat _)
  · exact runs_setRegThenFlag BitVec.toNat rfl (shiftLeft_one_toNat _) (shiftedOutLeft_toNat _)

/-- Settles O24: the byte that VX takes, as it is. -/
theorem registerLoads : Obligations.RegisterLoads := by
  unfold Obligations.RegisterLoads
  refine fun x y nn s => ⟨⟨encodes_wordXNN (op := 0x6#4) (by simp [decode]), ?_⟩,
    encodes_family8 0x0#4 (by simp [decode8]), ?_⟩
  · exact runs_setReg id rfl rfl
  · exact runs_setReg id rfl rfl

/-- Settles O25: the sum reduced, and no write but that of VX. -/
theorem addImmWrapsWithoutFlag : Obligations.AddImmWrapsWithoutFlag := by
  unfold Obligations.AddImmWrapsWithoutFlag
  refine fun x nn s => ⟨encodes_wordXNN (op := 0x7#4) (by simp [decode]), ?_⟩
  exact runs_setReg BitVec.toNat rfl (BitVec.toNat_add _ _)

/-- Settles O26: the three operations bit by bit. -/
theorem logicIsBitwise : Obligations.LogicIsBitwise := by
  unfold Obligations.LogicIsBitwise
  refine fun x y s => ⟨⟨encodes_family8 0x1#4 (by simp [decode8]), encodes_family8 0x2#4 (by simp [decode8]),
    encodes_family8 0x3#4 (by simp [decode8])⟩, fun i f hif => ?_⟩
  obtain ⟨rfl, rfl⟩ | ⟨rfl, rfl⟩ | ⟨rfl, rfl⟩ :
      (i = .orReg x y ∧ f = or) ∨ (i = .andReg x y ∧ f = and) ∨ (i = .xorReg x y ∧ f = xor) := by simpa using hif
  · exact runs_setLogicResult rfl fun _ => BitVec.getLsbD_or
  · exact runs_setLogicResult rfl fun _ => BitVec.getLsbD_and
  · exact runs_setLogicResult rfl fun _ => BitVec.getLsbD_xor

end Sys2Proof.Machine
end

section
/-! PROOFS. The index register and the memory blocks (44_index_memory.md R190 to R195). The operations on I, on memory
through I and on a register block each get their frame; a block that ends at `I + n` passes or fails its checks as the
statements say; FX33 and FX55 share the rules of the store. -/

namespace Sys2Proof.Machine

open Sys2Proof.Claims

/-! ### Frames of the index and block operations -/

theorem onlyChanges_setIndex {may : Elem → Prop} (hindex : may .index) (w : Word) (s : State) :
    OnlyChanges may s (s.setIndex w) := by
  intro e he
  cases e with
  | index => exact absurd hindex he
  | _ => simp [Same]

/-- I moves only under LOADSTORE_INCREMENTS_I. -/
theorem onlyChanges_bumpIndex {may : Elem → Prop} {s : State}
    (hindex : s.build.loadstoreIncrementsI = true → may .index) (x : Reg) : OnlyChanges may s (s.bumpIndex x) := by
  intro e he
  cases e with
  | index =>
    have hstays : ¬ s.build.loadstoreIncrementsI = true := fun hinc => he (hindex hinc)
    simp [Same, hstays]
  | _ => simp [Same]

/-- A store through I reaches the bytes of its block alone. -/
theorem onlyChanges_storeAtIndex {may : Elem → Prop} {s : State} {bytes : List Byte}
    (hblock : ∀ k, k < bytes.length → may (.byte (s.effAddr k))) : OnlyChanges may s (s.storeAtIndex bytes) := by
  intro e he
  cases e with
  | byte a =>
    refine State.readByte_writeFrom_outside bytes ?_
    by_contra hin
    have ha : s.effAddr (a - s.index.toNat) = a := by
      unfold State.effAddr
      omega
    exact he (ha ▸ hblock (a - s.index.toNat) (by omega))
  | _ => simp [Same]

theorem onlyChanges_loadRegBlock {may : Elem → Prop} {x : Reg} (hregs : ∀ k ≤ x, may (.reg k)) (s : State) :
    OnlyChanges may s (s.loadRegBlock x) := by
  intro e he
  cases e with
  | reg k =>
    have habove : ¬ k ≤ x := fun hk => he (hregs k hk)
    simp [Same, habove]
  | _ => simp [Same]

/-! ### The checks of a block whose last byte is at `I + n` -/

/-- The highest address decides the bounds of the block. -/
theorem inBounds_succ {s : State} {n : Nat} (h : s.index.toNat + n < 4096) : InBounds s (n + 1) := by
  intro k hk
  omega

/-- `HitsProtected` through the model's own `writeProtected` (20_memory.md R87). -/
theorem hitsProtected_iff {s : State} {n : Nat} :
    HitsProtected s n ↔ ∃ k, k < n ∧ writeProtected s.build.lowWritePolicy (s.effAddr k) = true := by
  simp only [HitsProtected, writeProtected_iff, State.effAddr]

theorem storeCheck_passes {s : State} {n : Nat} (h : s.index.toNat + n < 4096) (hfree : ¬ HitsProtected s (n + 1)) :
    s.storeCheck (n + 1) = none := by
  refine storeCheck_eq_none.2 ⟨inBounds_succ h, fun k hk => Bool.eq_false_iff.2 fun hprot => ?_⟩
  exact hfree (hitsProtected_iff.2 ⟨k, hk, hprot⟩)

theorem storeCheck_protected {s : State} {n : Nat} (h : s.index.toNat + n < 4096) (hhits : HitsProtected s (n + 1)) :
    s.storeCheck (n + 1) = some .protectedWrite :=
  storeCheck_eq_some.2 (.inr ⟨rfl, inBounds_succ h, hitsProtected_iff.1 hhits⟩)

/-- A failed check is the fault of R136. -/
theorem faults_of_check {i : Instr} {s effect : State} {check : Option FaultKind} {kind : FaultKind}
    (hexec : exec i s = faultOr i s check effect) (hcheck : check = some kind) : Faults i s kind := by
  rw [Faults, hexec, hcheck]
  rfl

theorem exec_of_check_none {i : Instr} {s effect : State} {check : Option FaultKind}
    (hexec : exec i s = faultOr i s check effect) (hcheck : check = none) : exec i s = .next effect := by
  rw [hexec, hcheck, faultOr_none]

/-! ### What stands in memory and in I afterwards -/

/-- Each byte of a store through I reads back, where the block lies in memory. -/
theorem readByte_storeAtIndex {s : State} {bytes : List Byte} {k : Nat} {b : Byte} (hwf : s.memWf = true)
    (hend : s.index.toNat + bytes.length ≤ 4096) (hk : bytes[k]? = some b) :
    (s.storeAtIndex bytes).readByte (s.index.toNat + k) = b := by
  obtain ⟨hlt, rfl⟩ := List.getElem?_eq_some_iff.1 hk
  exact State.readByte_writeFrom_inside bytes k hwf hlt hend

/-- R194 and R195 under LOADSTORE_INCREMENTS_I. -/
theorem bumpIndex_index_toNat {s : State} (hinc : s.build.loadstoreIncrementsI = true) (x : Reg) :
    (s.bumpIndex x).index.toNat = (s.index.toNat + x.val + 1) % 65536 := by
  rw [State.bumpIndex_index, if_pos hinc, BitVec.toNat_add, BitVec.toNat_ofNat]
  omega

/-! ### The instructions that write I -/

/-- An instruction that writes I alone. -/
theorem runs_setIndex {i : Instr} {s : State} {w : Word} {n : Nat}
    (hexec : exec i s = .next (s.afterFetch.setIndex w)) (hw : w.toNat = n) :
    Runs i s (among [.index, .pc]) (fun t => t.index.toNat = n ∧ t.pc = s.pc + 2) := by
  have hframe : OnlyChanges (among [.index, .pc]) s (s.afterFetch.setIndex w) :=
    onlyChanges_trans (onlyChanges_afterFetch (by simp [among]) s) (onlyChanges_setIndex (by simp [among]) w _)
  exact ⟨_, hexec, hframe, hw, rfl⟩

/-- R191: the sum reduced modulo 65536. -/
theorem index_add_zextByte_toNat (index : Word) (b : Byte) :
    (index + zextByte b).toNat = (index.toNat + b.toNat) % 65536 := by
  rw [BitVec.toNat_add, zextByte_toNat]

/-- R192 on a digit. -/
theorem exec_ldFVx_of_digit {x : Reg} {s : State} {d : Fin 16} (h : (s.reg x).toNat = d.val) :
    exec (.ldFVx x) s = .next (s.afterFetch.setIndex (glyphAddress d)) := by
  simp only [exec, execLdFVx, digitOf_eq_some.2 h]

/-- R192 above 0xF. -/
theorem exec_ldFVx_of_large {x : Reg} {s : State} (h : (s.reg x).toNat > 0xF) :
    exec (.ldFVx x) s = raiseIn (.ldFVx x) .operandOutOfRange s := by
  simp only [exec, execLdFVx, digitOf_eq_none.2 h]

/-! ### The blocks -/

/-- The frame of FX33 and of FX55 without its write of I. -/
theorem onlyChanges_fetchThenStore {s : State} {n : Nat} {bytes : List Byte} {es : List Elem} (hpc : .pc ∈ es)
    (hlen : bytes.length = n) : OnlyChanges (storing s n es) s (s.afterFetch.storeAtIndex bytes) := by
  subst hlen
  exact onlyChanges_trans (onlyChanges_afterFetch (.inl hpc) s)
    (onlyChanges_storeAtIndex fun k hk => .inr ⟨k, hk, rfl⟩)

/-- The frame of FX55: I is among its elements only where it is moved. -/
theorem onlyChanges_storeRegs (x : Reg) (s : State) :
    OnlyChanges (storing s (x.val + 1) (if s.build.loadstoreIncrementsI then [.index, .pc] else [.pc])) s
      ((s.afterFetch.storeAtIndex (s.regBlock x)).bumpIndex x) := by
  refine onlyChanges_trans (onlyChanges_fetchThenStore ?_ (length_regBlock s x)) (onlyChanges_bumpIndex ?_ x)
  · split <;> simp
  · intro hinc
    rw [State.storeAtIndex_build, State.afterFetch_build] at hinc
    simp [storing, hinc]

/-- The frame of FX65. -/
theorem onlyChanges_loadRegs (x : Reg) (s : State) :
    OnlyChanges
      (fun e => e = .pc ∨ (∃ k : Reg, k ≤ x ∧ e = .reg k) ∨ (s.build.loadstoreIncrementsI = true ∧ e = .index)) s
      ((s.afterFetch.loadRegBlock x).bumpIndex x) :=
  onlyChanges_trans (onlyChanges_afterFetch (.inl rfl) s)
    (onlyChanges_trans (onlyChanges_loadRegBlock (fun k hk => .inr (.inl ⟨k, hk, rfl⟩)) _)
      (onlyChanges_bumpIndex (fun hinc => .inr (.inr ⟨hinc, rfl⟩)) x))

/-! ### The words -/

/-- A word of family F is decided by its low byte (R111). -/
theorem encodes_familyF {x : Reg} {i : Instr} (nn : Byte) (h : decodeF (packXNN 0xF#4 x nn) = .instruction i) :
    Encodes (wordXNN 0xF x.val nn.toNat) i :=
  encodes_wordXNN (op := 0xF#4) (by simpa [decode] using h)

/-! ### The statements about the index register and the memory blocks -/

/-- Settles O32: the checks pass or name the fault, and the three digits read back from the stored block. -/
theorem bcdStoresDigits : Obligations.BcdStoresDigits := by
  unfold Obligations.BcdStoresDigits
  intro x s hwf
  refine ⟨encodes_familyF 0x33#8 (by simp [decodeF]), fun hend hfree => ?_,
    fun hout => faults_of_check rfl (storeCheck_outside (k := 2) (by decide) hout),
    fun hend hhits => faults_of_check rfl (storeCheck_protected hend hhits)⟩
  have hread : ∀ {k : Nat} {b : Byte}, (bcdDigits (s.reg x))[k]? = some b →
      ((s.afterFetch.storeAtIndex (bcdDigits (s.reg x))).readByte (s.index.toNat + k)).toNat = b.toNat :=
    fun hk => congrArg BitVec.toNat (readByte_storeAtIndex (s := s.afterFetch) hwf hend hk)
  refine ⟨_, exec_of_check_none rfl (storeCheck_passes hend hfree), onlyChanges_fetchThenStore (by simp) rfl,
    ?hundreds, ?tens, ?units, rfl⟩
  case hundreds => simpa using hread (k := 0) rfl
  case tens => simpa using hread (k := 1) rfl
  case units => simpa using hread (k := 2) rfl

/-- Settles O33: the checks as for FX33, and the byte at place k of the stored block is Vk. -/
theorem storeRegistersToMemory : Obligations.StoreRegistersToMemory := by
  unfold Obligations.StoreRegistersToMemory
  intro x s hwf
  refine ⟨encodes_familyF 0x55#8 (by simp [decodeF]), fun hend hfree => ?_,
    fun hout => faults_of_check rfl (storeCheck_outside (Nat.lt_succ_self x.val) hout),
    fun hend hhits => faults_of_check rfl (storeCheck_protected hend hhits)⟩
  refine ⟨_, exec_of_check_none rfl (storeCheck_passes hend hfree), onlyChanges_storeRegs x s, fun k hk => ?_,
    fun hinc => bumpIndex_index_toNat (s := s.afterFetch.storeAtIndex _) hinc x, by simp⟩
  rw [State.bumpIndex_readByte]
  refine readByte_storeAtIndex (s := s.afterFetch) hwf ?_ (regBlock_getElem? s x k hk)
  rw [length_regBlock]
  exact hend

/-- Settles O34: only the bounds are checked, whatever the write policy. -/
theorem loadRegistersFromMemory : Obligations.LoadRegistersFromMemory := by
  unfold Obligations.LoadRegistersFromMemory
  intro x s
  refine ⟨encodes_familyF 0x65#8 (by simp [decodeF]), fun hend => ?_,
    fun hout => faults_of_check rfl (boundsCheck_outside (Nat.lt_succ_self x.val) hout)⟩
  have hcheck : s.boundsCheck (x.val + 1) = none := boundsCheck_eq_none.2 (inBounds_succ hend)
  refine ⟨_, exec_of_check_none rfl hcheck, onlyChanges_loadRegs x s, fun k hk => ?_,
    fun hinc => bumpIndex_index_toNat (s := s.afterFetch.loadRegBlock x) hinc x, by simp⟩
  simp [hk, State.effAddr]

/-- Settles O30: both write I alone, with NNN or with the reduced sum. -/
theorem indexLoadAndAdd : Obligations.IndexLoadAndAdd := by
  unfold Obligations.IndexLoadAndAdd
  refine fun nnn x s => ⟨⟨encodes_wordNNN (op := 0xA#4) (by simp [decode]), ?_⟩,
    encodes_familyF 0x1E#8 (by simp [decodeF]), ?_⟩
  · exact runs_setIndex rfl (zextAddr_toNat nnn)
  · exact runs_setIndex rfl (index_add_zextByte_toNat s.index (s.reg x))

/-- Settles O31: VX is a digit, whose glyph I takes, or it is too large and the fault is raised. -/
theorem fontAddressOfDigit : Obligations.FontAddressOfDigit := by
  unfold Obligations.FontAddressOfDigit
  refine fun x s => ⟨encodes_familyF 0x29#8 (by simp [decodeF]), fun hdigit => ?_, fun hlarge =>
    exec_ldFVx_of_large hlarge⟩
  obtain ⟨d, hd⟩ : ∃ d : Fin 16, (s.reg x).toNat = d.val := ⟨⟨_, Nat.lt_succ_of_le hdigit⟩, rfl⟩
  rw [hd]
  exact runs_setIndex (exec_ldFVx_of_digit hd) (glyphAddress_toNat d)

end Sys2Proof.Machine
end

section
/-! PROOFS. The display (45_display.md R210 to R214). CLS and DRW are the fetch and one operation on the screen, each with
its frame; the pixels that the raster hits are those that the statements' sprite covers, so the laws of the hit list say
what DRW does to a pixel and when it collides. -/

namespace Sys2Proof.Machine

open Sys2Proof.Claims

/-! ### What the screen operations leave -/

theorem onlyChanges_clearScreen {may : Elem → Prop} (hfb : may .fb) (hdraw : may .drawFlag) (s : State) :
    OnlyChanges may s s.clearScreen := by
  intro e he
  cases e with
  | fb => exact absurd hfb he
  | drawFlag => exact absurd hdraw he
  | _ => simp [Same]

theorem onlyChanges_showRaster {may : Elem → Prop} (hfb : may .fb) (hdraw : may .drawFlag) (hflag : may (.reg 15))
    (r : Raster) (s : State) : OnlyChanges may s (s.showRaster r) := by
  intro e he
  cases e with
  | fb => exact absurd hfb he
  | drawFlag => exact absurd hdraw he
  | reg y =>
    have hne : y ≠ regF := by
      rintro rfl
      exact he hflag
    simp [Same, hne]
  | _ => simp [Same]

/-- The frame of DRW, whatever it drew. -/
theorem onlyChanges_draw (r : Raster) (s : State) :
    OnlyChanges (among [.fb, .drawFlag, .reg 15, .pc]) s (s.afterFetch.showRaster r) :=
  onlyChanges_trans (onlyChanges_afterFetch (by simp [among]) s)
    (onlyChanges_showRaster (by simp [among]) (by simp [among]) (by simp [among]) r _)

/-- VF is the collision flag of the raster (R212). -/
theorem showRaster_flag (r : Raster) (s : State) : (s.showRaster r).reg 15 = flagByte r.col := by
  simp [regF]

/-! ### The word and the checks of DRW -/

/-- Family D, N as the low nibble (R107). -/
theorem encodes_drw (x y : Reg) (n : Fin 16) : Encodes (wordXY 0xD x.val y.val n.val) (.drw x y n) :=
  encodes_wordXY (op := 0xD#4) (fn := BitVec.ofFin (w := 4) n) (decode_packXY_drw x y _)

/-- N rows lie in memory where the last one does, and where there is none. -/
theorem boundsCheck_rows {s : State} {n : Fin 16} (h : s.index.toNat + n.val ≤ 4096 ∨ n = 0) :
    s.boundsCheck n.val = none := by
  refine boundsCheck_eq_none.2 fun k hk => ?_
  obtain hfit | rfl := h
  · omega
  · exact absurd hk (Nat.not_lt_zero k)

/-- R211 where every row lies in memory. -/
theorem exec_drw_of_rows (x y : Reg) {n : Fin 16} {s : State} (h : s.index.toNat + n.val ≤ 4096 ∨ n = 0) :
    exec (.drw x y n) s = .next (s.afterFetch.showRaster (s.spriteRaster x y n)) :=
  exec_of_check_none rfl (boundsCheck_rows h)

/-- R83 for DRW: the last row is outside, whether the screen clips it or not. -/
theorem drw_faults_outside (x y : Reg) {n : Fin 16} {s : State} (hn : n ≠ 0) (h : s.index.toNat + n.val > 4096) :
    Faults (.drw x y n) s .dataOutOfBounds := by
  have hpos : n.val ≠ 0 := Fin.val_ne_iff.2 hn
  exact faults_of_check rfl (boundsCheck_outside (k := n.val - 1) (by omega) (by omega))

/-! ### The raster in the statements' words -/

/-- A hit flips its pixel, so the pixel differs exactly where there was one. -/
theorem xor_ne_self_iff (lit hits : Bool) : (lit ^^ hits) ≠ lit ↔ hits = true := by
  cases lit <;> cases hits <;> decide

section
variable {s : State} {x y : Reg} {n : Fin 16} {px py : Nat}

/-- Fewer rows than the screen has, so no pixel is hit twice (R214). -/
theorem rows_length_le : (s.loadAtIndex n.val).length ≤ 32 := by
  rw [length_loadAtIndex]
  omega

/-- The pixels that DXYN hits in `s` are those of the screen that its sprite covers. -/
theorem mem_spriteHits_iff_spriteCovers (hp : OnScreen (px, py)) :
    (px, py) ∈ spriteHits s.build.drawWrap (startColumn (s.reg x)) (startRow (s.reg y)) (s.loadAtIndex n.val) ↔
      SpriteCovers s x y n px py := by
  simp only [mem_spriteHits, place_eq_some, hp, true_and, length_loadAtIndex, loadAtIndex_getElem, startColumn,
    startRow, exists_prop, SpriteCovers]

/-- R211: DXYN changes exactly the pixels that its sprite covers. -/
theorem pixel_spriteRaster_ne_iff (hp : OnScreen (px, py)) :
    (s.spriteRaster x y n).fb.pixel px py ≠ s.fb.pixel px py ↔ SpriteCovers s x y n px py := by
  rw [State.spriteRaster, pixel_drawSprite rows_length_le hp, xor_ne_self_iff, decide_eq_true_iff,
    mem_spriteHits_iff_spriteCovers hp]

/-- R212: DXYN reports exactly the collisions of its sprite. -/
theorem spriteRaster_col_iff : (s.spriteRaster x y n).col = true ↔ SpriteCollides s x y n := by
  rw [State.spriteRaster, col_drawSprite rows_length_le]
  constructor
  · rintro ⟨⟨px, py⟩, hhit, hlit⟩
    obtain ⟨hx, hy⟩ : OnScreen (px, py) := onScreen_spriteHits _ hhit
    exact ⟨px, py, hx, hy, (mem_spriteHits_iff_spriteCovers ⟨hx, hy⟩).1 hhit, hlit⟩
  · rintro ⟨px, py, hx, hy, hcovers, hlit⟩
    exact ⟨(px, py), (mem_spriteHits_iff_spriteCovers ⟨hx, hy⟩).2 hcovers, hlit⟩

end

/-! ### The statements about the display -/

/-- Settles O36: the raster in the statements' words where every row lies in memory, else the failed check. -/
theorem drwFlipsSpriteAndReportsCollision : Obligations.DrwFlipsSpriteAndReportsCollision := by
  unfold Obligations.DrwFlipsSpriteAndReportsCollision
  refine fun x y n s => ⟨encodes_drw x y n, fun hrows => ?_, drw_faults_outside x y⟩
  refine ⟨_, exec_drw_of_rows x y hrows, onlyChanges_draw _ s, ?pixels, ?collision, ?noCollision, rfl, rfl⟩
  case pixels => exact fun px py hx hy => pixel_spriteRaster_ne_iff ⟨hx, hy⟩
  case collision =>
    intro hcollides
    rw [showRaster_flag, spriteRaster_col_iff.2 hcollides]
    rfl
  case noCollision =>
    intro hnone
    rw [showRaster_flag, Bool.eq_false_iff.2 (mt spriteRaster_col_iff.1 hnone)]
    rfl

/-- Settles O35: CLS is the fetch and the blank framebuffer. -/
theorem clsClearsScreen : Obligations.ClsClearsScreen := by
  unfold Obligations.ClsClearsScreen
  intro s
  have hframe : OnlyChanges (among [.fb, .drawFlag, .pc]) s s.afterFetch.clearScreen :=
    onlyChanges_trans (onlyChanges_afterFetch (by simp [among]) s)
      (onlyChanges_clearScreen (by simp [among]) (by simp [among]) _)
  exact ⟨rfl, _, rfl, hframe, fun px py _ _ => Framebuffer.pixel_blank px py, rfl, rfl⟩

end Sys2Proof.Machine
end

section
/-! PROOFS. Timers and the key wait (46_timers_keys_random.md R231 to R234). Each timer write gets its frame; FX0A gets one
equation for a lowest key and one for no key, where the fetch is undone and the whole state is the one the tick began in. -/

namespace Sys2Proof.Machine

open Sys2Proof.Claims

/-! ### Frames of the timer writes -/

theorem onlyChanges_setDelay {may : Elem → Prop} (hdt : may .dt) (b : Byte) (s : State) :
    OnlyChanges may s (s.setDelay b) := by
  intro e he
  cases e with
  | dt => exact absurd hdt he
  | _ => simp [Same]

theorem onlyChanges_setSound {may : Elem → Prop} (hst : may .st) (b : Byte) (s : State) :
    OnlyChanges may s (s.setSound b) := by
  intro e he
  cases e with
  | st => exact absurd hst he
  | _ => simp [Same]

/-- R55: the tone is on exactly while ST is not 0. -/
theorem tone_iff {s : State} : s.tone = true ↔ s.st ≠ 0 := bne_iff_ne

/-! ### The key wait, one equation a case -/

/-- R232 with a key down. -/
theorem exec_ldVxK_of_lowest {s : State} {k : Fin 16} (x : Reg) (h : s.lowestKeyDown = some k) :
    exec (.ldVxK x) s = .next (s.afterFetch.setReg x (keyByte k)) := by
  simp only [exec, execLdVxK, h]

/-- The wait's jump goes back over the fetched word, so nothing of the fetch remains. -/
theorem afterFetch_jumpBack (s : State) : s.afterFetch.jumpTo (s.afterFetch.pc - 2#16) = s := by
  rw [State.afterFetch_pc, BitVec.add_sub_cancel]
  rfl

/-- R232 with no key down. -/
theorem exec_ldVxK_of_noKey {s : State} (x : Reg) (h : s.lowestKeyDown = none) : exec (.ldVxK x) s = .next s := by
  simp only [exec, execLdVxK, h, afterFetch_jumpBack]

/-- The frame of a tick that leaves the state as it was. -/
theorem onlyChanges_refl (may : Elem → Prop) (s : State) : OnlyChanges may s s := fun e _ => by cases e <;> rfl

/-! ### The statements about timers and the key wait -/

/-- Settles O40: the model's `lowestKeyDown` is the statement's key, or there is none and the state is unchanged. -/
theorem keyWaitTakesLowestKey : Obligations.KeyWaitTakesLowestKey := by
  unfold Obligations.KeyWaitTakesLowestKey
  refine fun x s => ⟨encodes_familyF 0x0A#8 (by simp [decodeF]), fun k hdown hbelow => ?_, fun hnone => ?_⟩
  · have hlowest : s.lowestKeyDown = some k := lowestKeyDown_eq_some.2 ⟨hdown, hbelow⟩
    exact runs_setReg BitVec.toNat (exec_ldVxK_of_lowest x hlowest) (keyByte_toNat k)
  · have hwait : s.lowestKeyDown = none := lowestKeyDown_eq_none.2 hnone
    exact ⟨s, exec_ldVxK_of_noKey x hwait, onlyChanges_refl _ s, rfl⟩

/-- Settles O39: the fetch and one write, of VX, of DT or of ST. -/
theorem timerRegisterMoves : Obligations.TimerRegisterMoves := by
  unfold Obligations.TimerRegisterMoves
  intro x s
  refine ⟨⟨encodes_familyF 0x07#8 (by simp [decodeF]), ?readDelay⟩,
    ⟨encodes_familyF 0x15#8 (by simp [decodeF]), ?writeDelay⟩, encodes_familyF 0x18#8 (by simp [decodeF]), ?writeSound⟩
  case readDelay => exact runs_setReg id rfl rfl
  case writeDelay =>
    have hframe : OnlyChanges (among [.dt, .pc]) s (s.afterFetch.setDelay (s.reg x)) :=
      onlyChanges_trans (onlyChanges_afterFetch (by simp [among]) s) (onlyChanges_setDelay (by simp [among]) _ _)
    exact ⟨_, rfl, hframe, rfl, rfl⟩
  case writeSound =>
    have hframe : OnlyChanges (among [.st, .pc]) s (s.afterFetch.setSound (s.reg x)) :=
      onlyChanges_trans (onlyChanges_afterFetch (by simp [among]) s) (onlyChanges_setSound (by simp [among]) _ _)
    exact ⟨_, rfl, hframe, rfl, tone_iff, rfl⟩

end Sys2Proof.Machine
end

section
/-! PROOFS. The encoder undoes the decoder (30_encoding.md R107), so the word that a fault record keeps is the fetched word
(10_state.md R53). Each pack of a word's own fields is that word; each dispatch of `decode` gets one lemma. -/

namespace Sys2Proof

/-! ### A word from its operation and its other fields -/

theorem packNNN_of_fieldOp {w : Word} {op : BitVec 4} (hop : fieldOp w = op) : packNNN op (fieldNNN w) = w :=
  hop ▸ packNNN_fields w

theorem packXNN_of_fieldOp {w : Word} {op : BitVec 4} (hop : fieldOp w = op) :
    packXNN op (fieldX w) (fieldNN w) = w :=
  hop ▸ packXNN_fields w

theorem packXNN_of_fields {w : Word} {op : BitVec 4} {nn : Byte} (hop : fieldOp w = op) (hnn : fieldNN w = nn) :
    packXNN op (fieldX w) nn = w :=
  hnn ▸ packXNN_of_fieldOp hop

theorem packXY_of_fields {w : Word} {op fn : BitVec 4} (hop : fieldOp w = op) (hfn : fieldFn w = fn) :
    packXY op (fieldX w) (fieldY w) fn = w :=
  hop ▸ hfn ▸ packXY_fields w

/-! ### The dispatches -/

section
variable {w : Word} {i : Instr}

/-- The two words of family 0 (R108). -/
theorem encode_of_decode0 (h : decode0 w = .instruction i) : encode i = w := by
  unfold decode0 at h
  split at h
  case isTrue hcls =>
    cases h
    exact hcls.symm
  case isFalse =>
    split at h
    case isTrue hret =>
      cases h
      exact hret.symm
    case isFalse => cases h

/-- A family with one instruction, whose low nibble is 0 (R109). -/
theorem encode_of_lowNibbleZero {op : BitVec 4} {j : Instr} (hop : fieldOp w = op)
    (hj : encode j = packXY op (fieldX w) (fieldY w) 0#4)
    (h : (if fieldFn w = 0#4 then Decoded.instruction j else .unrecognised w) = .instruction i) : encode i = w := by
  split at h
  case isTrue hfn =>
    cases h
    exact hj.trans (packXY_of_fields hop hfn)
  case isFalse => cases h

/-- Family 8, by the low nibble (R110). -/
theorem encode_of_decode8 (hop : fieldOp w = 0x8#4) (h : decode8 w = .instruction i) : encode i = w := by
  unfold decode8 at h
  split at h <;> cases h
  all_goals exact packXY_of_fields hop ‹_›

/-- Family E, by the low byte (R111). -/
theorem encode_of_decodeE (hop : fieldOp w = 0xE#4) (h : decodeE w = .instruction i) : encode i = w := by
  unfold decodeE at h
  split at h <;> cases h
  all_goals exact packXNN_of_fields hop ‹_›

/-- Family F, by the low byte (R111). -/
theorem encode_of_decodeF (hop : fieldOp w = 0xF#4) (h : decodeF w = .instruction i) : encode i = w := by
  unfold decodeF at h
  split at h <;> cases h
  all_goals exact packXNN_of_fields hop ‹_›

/-- No bit of a recognised word is ignored. -/
theorem encode_of_decode (h : decode w = .instruction i) : encode i = w := by
  unfold decode at h
  split at h
  case h_1 => exact encode_of_decode0 h
  case h_6 hop => exact encode_of_lowNibbleZero hop rfl h
  case h_9 hop => exact encode_of_decode8 hop h
  case h_10 hop => exact encode_of_lowNibbleZero hop rfl h
  case h_15 hop => exact encode_of_decodeE hop h
  case h_16 h0 h1 h2 h3 h4 h5 h6 h7 h8 h9 hA hB hC hD hE =>
    exact encode_of_decodeF (nibble_eq_F h0 h1 h2 h3 h4 h5 h6 h7 h8 h9 hA hB hC hD hE) h
  all_goals cases h
  case h_2 | h_3 | h_11 | h_12 => exact packNNN_of_fieldOp ‹_›
  case h_4 | h_5 | h_7 | h_8 | h_13 => exact packXNN_of_fieldOp ‹_›
  case h_14 hop => exact packXY_of_fields hop rfl

end

end Sys2Proof
end

section
/-! PROOFS. The faults of a tick (60_exceptions.md R251 to R259). Which fault an instruction raises is one table,
`execFault`, tied to `exec` by one equation; a tick's record and its cause follow from what a tick can do. -/

namespace Sys2Proof.Machine

open Sys2Proof.Claims

/-! ### Which fault an instruction raises -/

/-- The fault that the execution of an instruction in `s` raises, none where it has its effect. -/
def execFault (s : State) : Instr → Option FaultKind
  | .ret => if s.stack = [] then some .stackUnderflow else none
  | .call _ => if s.build.stackDepth ≤ s.stack.length then some .stackOverflow else none
  | .skp x | .sknp x | .ldFVx x => if (s.reg x).toNat > 0xF then some .operandOutOfRange else none
  | .drw _ _ n => s.boundsCheck n.val
  | .ldVxMem x => s.boundsCheck (x.val + 1)
  | .ldBVx _ => s.storeCheck 3
  | .ldMemVx x => s.storeCheck (x.val + 1)
  | .cls | .jp _ | .seImm _ _ | .sneImm _ _ | .seReg _ _ | .sneReg _ _ | .ldImm _ _ | .addImm _ _ | .ldReg _ _
  | .orReg _ _ | .andReg _ _ | .xorReg _ _ | .addReg _ _ | .sub _ _ | .shr _ _ | .subn _ _ | .shl _ _ | .ldI _
  | .jpV0 _ | .rnd _ _ | .ldVxDt _ | .ldVxK _ | .ldDtVx _ | .ldStVx _ | .addIVx _ => none

/-- A meaning that raises its fault exactly under `c` is the check of `c` and then its effect. -/
theorem faultOr_ite {i : Instr} {s : State} {kind : FaultKind} {c : Prop} [Decidable c]
    (hraises : c → exec i s = raiseIn i kind s) (hruns : ¬ c → ∃ t, exec i s = .next t ∧ t.fault = s.fault) :
    ∃ effect, exec i s = faultOr i s (if c then some kind else none) effect ∧ effect.fault = s.fault := by
  by_cases h : c
  · exact ⟨s, by rw [hraises h, if_pos h, faultOr_some], rfl⟩
  · obtain ⟨t, ht, hkeeps⟩ := hruns h
    exact ⟨t, by rw [ht, if_neg h, faultOr_none], hkeeps⟩

theorem exists_digit {b : Byte} (h : ¬ b.toNat > 0xF) : ∃ k : Fin 16, b.toNat = k.val :=
  ⟨⟨b.toNat, by omega⟩, rfl⟩

/-- Every execution is the check of `execFault` and then an effect that leaves the fault record. -/
theorem exec_eq_faultOr (i : Instr) (s : State) :
    ∃ effect, exec i s = faultOr i s (execFault s i) effect ∧ effect.fault = s.fault := by
  cases i with
  | ret =>
    refine faultOr_ite exec_ret_of_nil fun hne => ?_
    obtain ⟨a, rest, hstack⟩ := List.exists_cons_of_ne_nil hne
    exact ⟨_, exec_ret_of_cons hstack, rfl⟩
  | call nnn => exact faultOr_ite (exec_call_of_full nnn) fun hroom => ⟨_, exec_call_of_room nnn (not_le.1 hroom), rfl⟩
  | skp x =>
    refine faultOr_ite exec_skp_of_large fun hsmall => ?_
    obtain ⟨k, hk⟩ := exists_digit hsmall
    exact ⟨_, exec_skp_of_key hk, by simp⟩
  | sknp x =>
    refine faultOr_ite exec_sknp_of_large fun hsmall => ?_
    obtain ⟨k, hk⟩ := exists_digit hsmall
    exact ⟨_, exec_sknp_of_key hk, by simp⟩
  | ldFVx x =>
    refine faultOr_ite exec_ldFVx_of_large fun hsmall => ?_
    obtain ⟨d, hd⟩ := exists_digit hsmall
    exact ⟨_, exec_ldFVx_of_digit hd, rfl⟩
  | ldVxK x =>
    cases hkey : s.lowestKeyDown with
    | some k => exact ⟨_, exec_ldVxK_of_lowest x hkey, rfl⟩
    | none => exact ⟨_, exec_ldVxK_of_noKey x hkey, rfl⟩
  | _ => exact ⟨_, rfl, by simp⟩

/-- R250: an execution in RUN records the fault of `execFault`, with the instruction's own word. -/
theorem exec_fault {i : Instr} {s t : State} (hf : s.fault = none) (h : exec i s = .next t) :
    t.fault = (execFault s i).map fun kind => { kind := kind, pcAt := s.pc, word := some (encode i) } := by
  obtain ⟨effect, hexec, hkeeps⟩ := exec_eq_faultOr i s
  rw [hexec] at h
  cases hcheck : execFault s i with
  | none =>
    rw [hcheck, faultOr_none] at h
    cases h
    exact hkeeps.trans hf
  | some kind =>
    rw [hcheck, faultOr_some, raiseIn_eq] at h
    cases h
    rfl

/-! ### The cause of a fault -/

/-- A tick that fetches an instruction is that instruction's execution. -/
theorem step_of_fetches {s : State} {i : Instr} (h : Fetches s i) : step s = exec i s := by
  obtain ⟨hf, hcheck, hdecode⟩ := fetches_iff.1 h
  rw [step_fetched hf hcheck, hdecode]

/-- A tick that fetches an instruction raises the fault of `execFault`. -/
theorem step_of_execFault {s : State} {i : Instr} {kind : FaultKind} (hfetch : Fetches s i)
    (hfault : execFault s i = some kind) : step s = .next (s.raise kind (some (encode i))) := by
  obtain ⟨effect, hexec, -⟩ := exec_eq_faultOr i s
  rw [step_of_fetches hfetch, hexec, hfault, faultOr_some, raiseIn_eq]

/-- The record of a fault of `kind` in the tick of `s`: no word where the fault comes before the fetch (R53, R259). -/
def State.faultRecord (s : State) (kind : FaultKind) : FaultRecord where
  kind := kind
  pcAt := s.pc
  word := if kind = .fetchOutOfBounds ∨ kind = .missingRom then none else some (BitVec.ofNat 16 (fetchedNumber s))

/-- The faults of the instructions have their causes. The stack bound is needed by CALL alone: more than STACK_DEPTH
entries would be an overflow too. -/
theorem raisedBy_of_execFault {s : State} {i : Instr} {kind : FaultKind} (hdepth : s.stack.length ≤ s.build.stackDepth)
    (hfetch : Fetches s i) (h : execFault s i = some kind) : RaisedBy s kind := by
  cases i with
  | ret =>
    obtain ⟨hempty, ⟨⟩⟩ := Option.ite_none_right_eq_some.1 h
    exact ⟨hfetch, hempty⟩
  | call nnn =>
    obtain ⟨hfull, ⟨⟩⟩ := Option.ite_none_right_eq_some.1 h
    exact ⟨⟨nnn, hfetch⟩, hdepth.antisymm hfull⟩
  | skp x =>
    obtain ⟨hlarge, ⟨⟩⟩ := Option.ite_none_right_eq_some.1 h
    exact ⟨x, .inl hfetch, hlarge⟩
  | sknp x =>
    obtain ⟨hlarge, ⟨⟩⟩ := Option.ite_none_right_eq_some.1 h
    exact ⟨x, .inr (.inl hfetch), hlarge⟩
  | ldFVx x =>
    obtain ⟨hlarge, ⟨⟩⟩ := Option.ite_none_right_eq_some.1 h
    exact ⟨x, .inr (.inr hfetch), hlarge⟩
  | drw x y n =>
    obtain ⟨rfl, hout⟩ := boundsCheck_eq_some.1 h
    exact .inl ⟨x, y, n, hfetch, hout⟩
  | ldVxMem x =>
    obtain ⟨rfl, hout⟩ := boundsCheck_eq_some.1 h
    exact .inr (.inr ⟨x, .inr hfetch, hout⟩)
  | ldBVx x =>
    obtain ⟨rfl, hout⟩ | ⟨rfl, hin, hhits⟩ := storeCheck_eq_some.1 h
    · exact .inr (.inl ⟨x, hfetch, hout⟩)
    · exact .inl ⟨x, hfetch, hin, hitsProtected_iff.2 hhits⟩
  | ldMemVx x =>
    obtain ⟨rfl, hout⟩ | ⟨rfl, hin, hhits⟩ := storeCheck_eq_some.1 h
    · exact .inr (.inr ⟨x, .inl hfetch, hout⟩)
    · exact .inr ⟨x, hfetch, hin, hitsProtected_iff.2 hhits⟩
  | _ => cases h

/-- The fault of a fetched instruction comes after the fetch, so its record has the instruction's word. -/
theorem faultRecord_of_fetches {s : State} {i : Instr} {kind : FaultKind} (hfetch : Fetches s i)
    (h : RaisedBy s kind) : s.faultRecord kind = { kind := kind, pcAt := s.pc, word := some (encode i) } := by
  obtain ⟨-, hrom, hpc, hdecode⟩ := hfetch
  have hlate : ¬ (kind = .fetchOutOfBounds ∨ kind = .missingRom) := by
    rintro (rfl | rfl)
    · exact absurd h.2 hpc.not_gt
    · exact absurd (hrom.symm.trans h) (by decide)
  rw [State.faultRecord, if_neg hlate, encode_of_decode hdecode]

/-- Only R131 and R132 raise a fault before the fetch. -/
theorem fetchCheck_cases {s : State} {kind : FaultKind} (h : s.fetchCheck = some kind) :
    kind = .missingRom ∨ kind = .fetchOutOfBounds := by
  unfold State.fetchCheck at h
  split_ifs at h
  · cases h
    exact .inl rfl
  · cases h
    exact .inr rfl

/-- A tick in RUN records no fault, or one that has its cause. -/
theorem step_fault {s t : State} (hf : s.fault = none) (hdepth : s.stack.length ≤ s.build.stackDepth)
    (h : step s = .next t) : t.fault = none ∨ ∃ kind, RaisedBy s kind ∧ t.fault = some (s.faultRecord kind) := by
  obtain ⟨hhalted, -⟩ | ⟨-, kind, hcheck, rfl⟩ | ⟨-, hcheck, w, hw, rfl⟩ | ⟨-, hcheck, i, hi, hexec⟩ := step_cases h
  · exact absurd hf hhalted
  · obtain rfl | rfl := fetchCheck_cases hcheck
    · exact .inr ⟨.missingRom, fetchCheck_eq_missingRom.1 hcheck, rfl⟩
    · exact .inr ⟨.fetchOutOfBounds, fetchCheck_eq_fetchOutOfBounds.1 hcheck, rfl⟩
  · obtain ⟨hrom, hpc⟩ := fetchCheck_eq_none.1 hcheck
    obtain rfl : s.fetchWord = w := ((decode_unrecognised_iff _ _).1 hw).1
    rw [fetchWord_eq_ofNat] at hw
    refine .inr ⟨.unknownOpcode, ⟨hrom, hpc, hw⟩, ?_⟩
    simp [State.faultRecord, fetchWord_eq_ofNat]
  · have hfetch : Fetches s i := fetches_iff.2 ⟨hf, hcheck, hi⟩
    rw [exec_fault hf hexec]
    cases hfault : execFault s i with
    | none => exact .inl rfl
    | some kind =>
      have hcause : RaisedBy s kind := raisedBy_of_execFault hdepth hfetch hfault
      exact .inr ⟨kind, hcause, by rw [faultRecord_of_fetches hfetch hcause, Option.map_some]⟩

/-- Every cause raises its fault: the tick answers the state it began in with a record of that kind. -/
theorem step_of_raisedBy {s : State} {kind : FaultKind} (hf : s.fault = none) (h : RaisedBy s kind) :
    ∃ w, step s = .next (s.raise kind w) := by
  cases kind with
  | missingRom => exact ⟨none, step_fetchCheck hf (fetchCheck_eq_missingRom.2 h)⟩
  | fetchOutOfBounds => exact ⟨none, step_fetchCheck hf (fetchCheck_eq_fetchOutOfBounds.2 h)⟩
  | unknownOpcode =>
    obtain ⟨hrom, hpc, hdecode⟩ := h
    exact ⟨_, unrecognisedWordFaults s _ hf hrom hpc rfl hdecode⟩
  | stackUnderflow =>
    obtain ⟨hfetch, hempty⟩ := h
    exact ⟨_, step_of_execFault hfetch (if_pos hempty)⟩
  | stackOverflow =>
    obtain ⟨⟨nnn, hfetch⟩, hfull⟩ := h
    exact ⟨_, step_of_execFault hfetch (if_pos hfull.ge)⟩
  | dataOutOfBounds =>
    obtain ⟨x, y, n, hfetch, hout⟩ | ⟨x, hfetch, hout⟩ | ⟨x, hfetch | hfetch, hout⟩ := h
    · exact ⟨_, step_of_execFault hfetch (boundsCheck_eq_some.2 ⟨rfl, hout⟩)⟩
    · exact ⟨_, step_of_execFault hfetch (storeCheck_eq_some.2 (.inl ⟨rfl, hout⟩))⟩
    · exact ⟨_, step_of_execFault hfetch (storeCheck_eq_some.2 (.inl ⟨rfl, hout⟩))⟩
    · exact ⟨_, step_of_execFault hfetch (boundsCheck_eq_some.2 ⟨rfl, hout⟩)⟩
  | protectedWrite =>
    obtain ⟨x, hfetch, hin, hhits⟩ | ⟨x, hfetch, hin, hhits⟩ := h
    · exact ⟨_, step_of_execFault hfetch (storeCheck_eq_some.2 (.inr ⟨rfl, hin, hitsProtected_iff.1 hhits⟩))⟩
    · exact ⟨_, step_of_execFault hfetch (storeCheck_eq_some.2 (.inr ⟨rfl, hin, hitsProtected_iff.1 hhits⟩))⟩
  | operandOutOfRange =>
    obtain ⟨x, hfetch | hfetch | hfetch, hlarge⟩ := h
    · exact ⟨_, step_of_execFault hfetch (if_pos hlarge)⟩
    · exact ⟨_, step_of_execFault hfetch (if_pos hlarge)⟩
    · exact ⟨_, step_of_execFault hfetch (if_pos hlarge)⟩

/-- Settles O14: a recorded fault has its cause and the record that R259 says, and every cause is recorded. -/
theorem faultKindsHaveTheirCauses : Obligations.FaultKindsHaveTheirCauses := by
  unfold Obligations.FaultKindsHaveTheirCauses
  refine ⟨fun s t hf hdepth hstep => ⟨fun kind => ⟨?cause, ?recorded⟩, ?record⟩, rfl⟩
  case recorded =>
    intro hcause
    obtain ⟨w, hraise⟩ := step_of_raisedBy hf hcause
    cases hraise.symm.trans hstep
    exact ⟨_, rfl, rfl⟩
  case cause =>
    rintro ⟨r, hr, rfl⟩
    obtain hnone | ⟨kind, hcause, hrecord⟩ := step_fault hf hdepth hstep
    · cases hnone.symm.trans hr
    · cases hrecord.symm.trans hr
      exact hcause
  case record =>
    intro r hr
    obtain hnone | ⟨kind, -, hrecord⟩ := step_fault hf hdepth hstep
    · cases hnone.symm.trans hr
    · cases hrecord.symm.trans hr
      exact ⟨rfl, rfl⟩

end Sys2Proof.Machine
end

section
/-! PROOFS. The host's transactions (60_exceptions.md R260, R270 to R275). The three that write get their frames; what each
answers is the model's definition, so the statements are about the state that is answered. -/

namespace Sys2Proof.Machine

open Sys2Proof.Claims

/-! ### Frames -/

theorem onlyChanges_timerTick {may : Elem → Prop} (hdt : may .dt) (hst : may .st) (s : State) :
    OnlyChanges may s s.timerTick := by
  intro e he
  cases e with
  | dt => exact absurd hdt he
  | st => exact absurd hst he
  | _ => simp [Same]

theorem onlyChanges_keySet {may : Elem → Prop} (hkeys : may .keys) (k : Fin 16) (down : Bool) (s : State) :
    OnlyChanges may s (s.keySet k down) := by
  intro e he
  cases e with
  | keys => exact absurd hkeys he
  | _ => simp [Same]

theorem onlyChanges_ackFrame {may : Elem → Prop} (hdraw : may .drawFlag) (s : State) :
    OnlyChanges may s s.ackFrame := by
  intro e he
  cases e with
  | drawFlag => exact absurd hdraw he
  | _ => simp [Same]

/-! ### What the transactions leave and answer -/

/-- R271: the named key takes its new state, the other keys keep theirs. -/
theorem keySet_key (k j : Fin 16) (down : Bool) (s : State) :
    (s.keySet k down).keys[j.val] = if j = k then down else s.keys[j.val] := by
  simp [Vector.getElem_set, Fin.ext_iff, eq_comm]

/-- R272: one bit for each pixel of the screen. -/
theorem length_fbRead (s : State) : s.fbRead.length = 2048 := by simp [State.fbRead, screenW, screenH]

/-- R272: row-major order. -/
theorem fbRead_getElem? (s : State) {px py : Nat} (hx : px < 64) (hy : py < 32) :
    s.fbRead[py * 64 + px]? = some (s.fb.pixel px py) := by
  have hk : py * 64 + px < 64 * 32 := by omega
  have hcolumn : (py * 64 + px) % 64 = px := by omega
  have hrow : (py * 64 + px) / 64 = py := by omega
  simp [State.fbRead, screenW, screenH, hk, hcolumn, hrow]

/-- R292: a load leaves the fault record, whether it answers Ok or RomTooLarge. -/
theorem loadRom_fault (rom : List Byte) (s : State) : (s.loadRom rom).1.fault = s.fault := by
  unfold State.loadRom
  split <;> rfl

theorem transact_tick {s t : State} (h : step s = .next t) : transact .tick s = .next (t, .done) := by
  simp only [transact, h]

/-- R260: in HALTED every transaction but RESET leaves the fault record. -/
theorem transact_fault_of_halted {s t : State} {tr : Transaction} {reply : Reply} (hhalted : s.fault ≠ none)
    (h : transact tr s = .next (t, reply)) (hreset : tr ≠ .reset) : t.fault = s.fault := by
  cases tr with
  | reset => exact absurd rfl hreset
  | tick => cases (transact_tick (step_halted hhalted)).symm.trans h; rfl
  | loadRom rom => cases h; exact loadRom_fault rom s
  | _ => cases h; rfl

/-! ### The statements about the host's transactions -/

/-- Settles O12: a tick is the halted one, and the other transactions do in HALTED what they do in RUN. -/
theorem haltedUntilReset : Obligations.HaltedUntilReset := by
  unfold Obligations.HaltedUntilReset
  refine fun s hhalted => ⟨step_halted hhalted, fun tr t reply => transact_fault_of_halted hhalted, ⟨_, _, rfl, rfl⟩,
    ⟨_, _, rfl, countDown_toNat s.dt, countDown_toNat s.st⟩, fun k down => ⟨_, _, rfl, ?_⟩, _, _, rfl, rfl⟩
  rw [State.keyDown, keySet_key, if_pos rfl]

/-- Settles O50, by induction on the number of ticks: each takes 1 from a timer above 0. -/
theorem timerTicksCountDown : Obligations.TimerTicksCountDown := by
  unfold Obligations.TimerTicksCountDown
  intro n
  induction n with
  | zero => exact fun s => ⟨s, rfl, rfl, rfl, onlyChanges_refl _ s⟩
  | succ n ih =>
    intro s
    obtain ⟨t, hrun, hdt, hst, hframe⟩ := ih s.timerTick
    have hfirst : OnlyChanges (among [.dt, .st]) s s.timerTick :=
      onlyChanges_timerTick (by simp [among]) (by simp [among]) s
    rw [State.timerTick_dt, countDown_toNat] at hdt
    rw [State.timerTick_st, countDown_toNat] at hst
    exact ⟨t, hrun, by omega, by omega, onlyChanges_trans hfirst hframe⟩

/-- Settles O51: each operation by its own lemma; the reads answer the state they were given. -/
theorem hostOperationsDoTheirWork : Obligations.HostOperationsDoTheirWork := by
  unfold Obligations.HostOperationsDoTheirWork
  refine fun s => ⟨fun k down => ?keySet, ?fbRead, rfl, ?ackFrame, ⟨_, rfl, tone_iff⟩, rfl⟩
  case keySet =>
    refine ⟨_, rfl, onlyChanges_keySet (by simp [among]) k down s, ?_, fun j hne => ?_⟩
    · rw [keySet_key, if_pos rfl]
    · rw [keySet_key, if_neg hne]
  case fbRead => exact ⟨_, rfl, length_fbRead s, fun px py hx hy => fbRead_getElem? s hx hy⟩
  case ackFrame => exact ⟨_, rfl, onlyChanges_ackFrame (by simp [among]) s, rfl⟩

end Sys2Proof.Machine
end

section
/-! PROOFS. RESET and LOAD_ROM (70_reset_and_hazards.md R290, R292). A ROM that fits is a block of bytes written from
PROGRAM_BASE, so what it stores and what it leaves are the laws of `writeFrom`. -/

namespace Sys2Proof.Machine

open Sys2Proof.Claims

/-! ### The ROM's block -/

/-- A placed ROM reaches rom_loaded and the bytes of its own block alone. -/
theorem onlyChanges_placeRom {may : Elem → Prop} {rom : List Byte} (hloaded : may .romLoaded)
    (hblock : ∀ k, k < rom.length → may (.byte (programBase + k))) (s : State) :
    OnlyChanges may s (s.placeRom rom) := by
  intro e he
  cases e with
  | byte a =>
    have hout : a < programBase ∨ programBase + rom.length ≤ a := by
      by_contra hin
      have ha : programBase + (a - programBase) = a := by omega
      exact he (ha ▸ hblock (a - programBase) (by omega))
    exact State.readByte_writeFrom_outside (s := s) rom hout
  | romLoaded => exact absurd hloaded he
  | _ => simp [Same]

/-- A ROM that fits ends within memory, so each of its bytes reads back at its place. -/
theorem readByte_placeRom {rom : List Byte} {s : State} (hwf : s.memWf = true) (hfits : rom.length ≤ 0xE00) {k : Nat}
    (hk : k < rom.length) : (s.placeRom rom).readByte (programBase + k) = rom[k] := by
  have hend : programBase + rom.length ≤ memSize := by
    unfold programBase memSize
    omega
  exact State.readByte_writeFrom_inside rom k hwf hk hend

/-! ### What LOAD_ROM answers -/

theorem transact_loadRom_of_fits {rom : List Byte} (hfits : rom.length ≤ 0xE00) (s : State) :
    transact (.loadRom rom) s = .next (s.placeRom rom, .load .ok) := by
  simp [transact, State.loadRom, romFits, hfits]

theorem transact_loadRom_of_tooLarge {rom : List Byte} (hlarge : rom.length > 0xE00) (s : State) :
    transact (.loadRom rom) s = .next (s, .load .romTooLarge) := by
  have hfits : ¬ rom.length ≤ 0xE00 := by omega
  simp [transact, State.loadRom, romFits, hfits]

/-! ### The statements about RESET and LOAD_ROM -/

/-- Settles O49: a ROM that fits is placed, with its frame and its bytes; a longer one is refused. -/
theorem loadRomPlacesBytes : Obligations.LoadRomPlacesBytes := by
  unfold Obligations.LoadRomPlacesBytes
  refine fun rom s hwf => ⟨fun hfits => ?_, fun hlarge => transact_loadRom_of_tooLarge hlarge s⟩
  exact ⟨_, transact_loadRom_of_fits hfits s, rfl, fun k hk => readByte_placeRom hwf hfits hk,
    onlyChanges_placeRom (.inl rfl) (fun k hk => .inr ⟨k, hk, rfl⟩) s⟩

/-- Settles O53: RESET answers the reset block, which holds R58's values whatever the state was. -/
theorem resetFromAnyState : Obligations.ResetFromAnyState := by
  unfold Obligations.ResetFromAnyState
  exact fun s => ⟨_, rfl, State.resetBlock_holdsResetValues s⟩

end Sys2Proof.Machine
end

section
/-! PROOFS. The decoder and the opcode map (30_encoding.md R106, R107). The decoder undoes the encoder family by family.
A word that selects an instruction's row is the word of that instruction with other operands, so it decodes into the
row; and no word selects two rows, since the decoder answers once. -/

namespace Sys2Proof

/-! ### The decoder undoes the encoder -/

/-- A packed word of family 8 goes to the dispatch of its low nibble (R110). -/
theorem decode_packXY_family8 (x y : Reg) (fn : BitVec 4) :
    decode (packXY 0x8#4 x y fn) = decode8 (packXY 0x8#4 x y fn) := by
  simp [decode]

/-- A packed word of family E goes to the dispatch of its low byte (R111). -/
theorem decode_packXNN_familyE (x : Reg) (nn : Byte) : decode (packXNN 0xE#4 x nn) = decodeE (packXNN 0xE#4 x nn) := by
  simp [decode]

/-- A packed word of family F goes to the dispatch of its low byte (R111). -/
theorem decode_packXNN_familyF (x : Reg) (nn : Byte) : decode (packXNN 0xF#4 x nn) = decodeF (packXNN 0xF#4 x nn) := by
  simp [decode]

/-- The primary nibble selects the family, whose fields give the operands back. -/
theorem decode_encode (i : Instr) : decode (encode i) = .instruction i := by
  cases i with
  | cls | ret => rfl
  | jp nnn | call nnn | ldI nnn | jpV0 nnn => simp [encode, decode]
  | seImm x nn | sneImm x nn | ldImm x nn | addImm x nn | rnd x nn => simp [encode, decode]
  | seReg x y | sneReg x y => simp [encode, decode]
  | ldReg x y | orReg x y | andReg x y | xorReg x y | addReg x y | sub x y | shr x y | subn x y | shl x y =>
    simp [encode, decode_packXY_family8, decode8]
  | drw x y n => exact decode_packXY_drw x y (BitVec.ofFin n)
  | skp x | sknp x => simp [encode, decode_packXNN_familyE, decodeE]
  | ldVxDt x | ldVxK x | ldDtVx x | ldStVx x | addIVx x | ldFVx x | ldBVx x | ldMemVx x | ldVxMem x =>
    simp [encode, decode_packXNN_familyF, decodeF]

/-- Settles O1: the decoder undoes the encoder. -/
theorem decodeInvertsEncode : Obligations.DecodeInvertsEncode := by
  unfold Obligations.DecodeInvertsEncode
  exact decode_encode

/-- Settles O2: the encoder undoes the decoder. -/
theorem encodeInvertsDecode : Obligations.EncodeInvertsDecode := by
  unfold Obligations.EncodeInvertsDecode
  exact fun _ _ => encode_of_decode

/-- Settles O7: fifteen words are decoded. -/
theorem sampleWordsDecode : Obligations.SampleWordsDecode := by
  unfold Obligations.SampleWordsDecode
  decide

/-! ### The fields that a row fixes -/

section
variable {w m mask : Word}

/-- A field is cut out bit by bit, so a mask acts on it alone. -/
theorem fieldOp_and (a b : Word) : fieldOp (a &&& b) = fieldOp a &&& fieldOp b := BitVec.extractLsb'_and

theorem fieldFn_and (a b : Word) : fieldFn (a &&& b) = fieldFn a &&& fieldFn b := BitVec.extractLsb'_and

theorem fieldNN_and (a b : Word) : fieldNN (a &&& b) = fieldNN a &&& fieldNN b := BitVec.extractLsb'_and

/-- A mask that keeps the primary nibble fixes it. -/
theorem fieldOp_of_masked (h : w &&& mask = m) (hmask : fieldOp mask = BitVec.allOnes 4) : fieldOp w = fieldOp m := by
  rw [← h, fieldOp_and, hmask, BitVec.and_allOnes]

/-- A mask that keeps the low nibble fixes it. -/
theorem fieldFn_of_masked (h : w &&& mask = m) (hmask : fieldFn mask = BitVec.allOnes 4) : fieldFn w = fieldFn m := by
  rw [← h, fieldFn_and, hmask, BitVec.and_allOnes]

/-- A mask that keeps the low byte fixes it. -/
theorem fieldNN_of_masked (h : w &&& mask = m) (hmask : fieldNN mask = BitVec.allOnes 8) : fieldNN w = fieldNN m := by
  rw [← h, fieldNN_and, hmask, BitVec.and_allOnes]

end

/-! ### A selected row decides the decoding -/

/-- The same instruction with the operands that stand in the fields of `w`. -/
def Instr.operandsFrom (w : Word) : Instr → Instr
  | .cls => .cls
  | .ret => .ret
  | .jp _ => .jp (fieldNNN w)
  | .call _ => .call (fieldNNN w)
  | .seImm _ _ => .seImm (fieldX w) (fieldNN w)
  | .sneImm _ _ => .sneImm (fieldX w) (fieldNN w)
  | .seReg _ _ => .seReg (fieldX w) (fieldY w)
  | .ldImm _ _ => .ldImm (fieldX w) (fieldNN w)
  | .addImm _ _ => .addImm (fieldX w) (fieldNN w)
  | .ldReg _ _ => .ldReg (fieldX w) (fieldY w)
  | .orReg _ _ => .orReg (fieldX w) (fieldY w)
  | .andReg _ _ => .andReg (fieldX w) (fieldY w)
  | .xorReg _ _ => .xorReg (fieldX w) (fieldY w)
  | .addReg _ _ => .addReg (fieldX w) (fieldY w)
  | .sub _ _ => .sub (fieldX w) (fieldY w)
  | .shr _ _ => .shr (fieldX w) (fieldY w)
  | .subn _ _ => .subn (fieldX w) (fieldY w)
  | .shl _ _ => .shl (fieldX w) (fieldY w)
  | .sneReg _ _ => .sneReg (fieldX w) (fieldY w)
  | .ldI _ => .ldI (fieldNNN w)
  | .jpV0 _ => .jpV0 (fieldNNN w)
  | .rnd _ _ => .rnd (fieldX w) (fieldNN w)
  | .drw _ _ _ => .drw (fieldX w) (fieldY w) (fieldN w)
  | .skp _ => .skp (fieldX w)
  | .sknp _ => .sknp (fieldX w)
  | .ldVxDt _ => .ldVxDt (fieldX w)
  | .ldVxK _ => .ldVxK (fieldX w)
  | .ldDtVx _ => .ldDtVx (fieldX w)
  | .ldStVx _ => .ldStVx (fieldX w)
  | .addIVx _ => .addIVx (fieldX w)
  | .ldFVx _ => .ldFVx (fieldX w)
  | .ldBVx _ => .ldBVx (fieldX w)
  | .ldMemVx _ => .ldMemVx (fieldX w)
  | .ldVxMem _ => .ldVxMem (fieldX w)

theorem Instr.operandsFrom_row (w : Word) (i : Instr) : (i.operandsFrom w).row = i.row := by
  cases i <;> rfl

/-- A word that selects an instruction's row is the word of that instruction with the operands of its own fields. -/
theorem encode_operandsFrom {w : Word} {i : Instr} (h : selectsRow w i.row) : encode (i.operandsFrom w) = w := by
  cases i <;> simp only [Instr.row] at h
  case cls | ret => exact h.symm.trans BitVec.and_allOnes
  case jp | call | ldI | jpV0 => exact packNNN_of_fieldOp (fieldOp_of_masked h rfl)
  case seImm | sneImm | ldImm | addImm | rnd => exact packXNN_of_fieldOp (fieldOp_of_masked h rfl)
  case drw => exact packXY_of_fields (fieldOp_of_masked h rfl) rfl
  case seReg | sneReg | ldReg | orReg | andReg | xorReg | addReg | sub | shr | subn | shl =>
    exact packXY_of_fields (fieldOp_of_masked h rfl) (fieldFn_of_masked h rfl)
  case skp | sknp | ldVxDt | ldVxK | ldDtVx | ldStVx | addIVx | ldFVx | ldBVx | ldMemVx | ldVxMem =>
    exact packXNN_of_fields (fieldOp_of_masked h rfl) (fieldNN_of_masked h rfl)

/-! ### The rows of the map are those of the instructions -/

theorem row_mem_opcodeRows (i : Instr) : i.row ∈ opcodeRows := by
  cases i <;> simp [Instr.row, opcodeRows]

/-- One instruction of each row of the map, in the table's order. -/
def rowInstrs : List Instr :=
  [.cls, .ret, .jp 0, .call 0, .seImm 0 0, .sneImm 0 0, .seReg 0 0, .ldImm 0 0, .addImm 0 0, .ldReg 0 0, .orReg 0 0,
    .andReg 0 0, .xorReg 0 0, .addReg 0 0, .sub 0 0, .shr 0 0, .subn 0 0, .shl 0 0, .sneReg 0 0, .ldI 0, .jpV0 0,
    .rnd 0 0, .drw 0 0 0, .skp 0, .sknp 0, .ldVxDt 0, .ldVxK 0, .ldDtVx 0, .ldStVx 0, .addIVx 0, .ldFVx 0, .ldBVx 0,
    .ldMemVx 0, .ldVxMem 0]

theorem rowInstrs_rows : rowInstrs.map Instr.row = opcodeRows := rfl

/-- A word that selects a row of the map decodes to an instruction of that row. -/
theorem decode_of_selectsRow {w : Word} {r : Word × Word} (hr : r ∈ opcodeRows) (h : selectsRow w r) :
    ∃ i, decode w = .instruction i ∧ i.row = r := by
  rw [← rowInstrs_rows] at hr
  obtain ⟨i, -, rfl⟩ := List.mem_map.1 hr
  refine ⟨i.operandsFrom w, ?_, i.operandsFrom_row w⟩
  rw [← decode_encode, encode_operandsFrom h]

/-- The family RowMatch as one fact about every instruction. -/
theorem rowMatch (i : Instr) : Laws.RowMatch.Statement i := by
  cases i with
  | cls => exact Laws.RowMatch.cls
  | ret => exact Laws.RowMatch.ret
  | jp nnn => exact Laws.RowMatch.jp nnn
  | call nnn => exact Laws.RowMatch.call nnn
  | seImm x nn => exact Laws.RowMatch.seImm x nn
  | sneImm x nn => exact Laws.RowMatch.sneImm x nn
  | seReg x y => exact Laws.RowMatch.seReg x y
  | ldImm x nn => exact Laws.RowMatch.ldImm x nn
  | addImm x nn => exact Laws.RowMatch.addImm x nn
  | ldReg x y => exact Laws.RowMatch.ldReg x y
  | orReg x y => exact Laws.RowMatch.orReg x y
  | andReg x y => exact Laws.RowMatch.andReg x y
  | xorReg x y => exact Laws.RowMatch.xorReg x y
  | addReg x y => exact Laws.RowMatch.addReg x y
  | sub x y => exact Laws.RowMatch.sub x y
  | shr x y => exact Laws.RowMatch.shr x y
  | subn x y => exact Laws.RowMatch.subn x y
  | shl x y => exact Laws.RowMatch.shl x y
  | sneReg x y => exact Laws.RowMatch.sneReg x y
  | ldI nnn => exact Laws.RowMatch.ldI nnn
  | jpV0 nnn => exact Laws.RowMatch.jpV0 nnn
  | rnd x nn => exact Laws.RowMatch.rnd x nn
  | drw x y n => exact Laws.RowMatch.drw x y n
  | skp x => exact Laws.RowMatch.skp x
  | sknp x => exact Laws.RowMatch.sknp x
  | ldVxDt x => exact Laws.RowMatch.ldVxDt x
  | ldVxK x => exact Laws.RowMatch.ldVxK x
  | ldDtVx x => exact Laws.RowMatch.ldDtVx x
  | ldStVx x => exact Laws.RowMatch.ldStVx x
  | addIVx x => exact Laws.RowMatch.addIVx x
  | ldFVx x => exact Laws.RowMatch.ldFVx x
  | ldBVx x => exact Laws.RowMatch.ldBVx x
  | ldMemVx x => exact Laws.RowMatch.ldMemVx x
  | ldVxMem x => exact Laws.RowMatch.ldVxMem x

/-- A recognised word selects the row of its instruction. -/
theorem selectsRow_of_decode {w : Word} {i : Instr} (h : decode w = .instruction i) : selectsRow w i.row :=
  encode_of_decode h ▸ (rowMatch i).2

/-! ### The statements about the opcode map -/

/-- Settles O3: a recognised word selects its own row, and a selected row decides the decoding. -/
theorem opcodeMapSelectsInstruction : Obligations.OpcodeMapSelectsInstruction := by
  unfold Obligations.OpcodeMapSelectsInstruction
  refine ⟨rfl, fun w i h => ⟨row_mem_opcodeRows i, selectsRow_of_decode h⟩, fun w r => decode_of_selectsRow,
    fun w hnone => ?_⟩
  cases h : decode w with
  | instruction i => exact absurd (selectsRow_of_decode h) (hnone i.row (row_mem_opcodeRows i))
  | unrecognised w' => rw [((decode_unrecognised_iff w w').1 h).1]

/-- Settles O4: the word has one decoding, whose row both rows are. -/
theorem opcodeRowsDisjoint : Obligations.OpcodeRowsDisjoint := by
  unfold Obligations.OpcodeRowsDisjoint
  intro w r r' hr hr' h h'
  obtain ⟨i, hi, rfl⟩ := decode_of_selectsRow hr h
  obtain ⟨j, hj, rfl⟩ := decode_of_selectsRow hr' h'
  cases hi.symm.trans hj
  rfl

end Sys2Proof
end

section
/-! PROOFS. Who writes what (10_state.md R43 to R52, 20_memory.md R89). One table names the elements that each
instruction may write beside pc, and one lemma says that no effect changes any other; each statement about an element
reads the rows of the table that name it. -/

namespace Sys2Proof.Machine

open Sys2Proof.Claims

/-! ### The table of written elements -/

/-- The `n` bytes from I. -/
def State.blockElems (s : State) (n : Nat) : List Elem := (List.range n).map (fun k => .byte (s.effAddr k))

/-- V0 to VX. -/
def regElems (x : Reg) : List Elem := (regsUpTo x).map .reg

/-- I, where FX55 and FX65 move it (R20). -/
def State.bumpElems (s : State) : List Elem := if s.build.loadstoreIncrementsI then [.index] else []

/-- VF, where 8XY1, 8XY2 and 8XY3 clear it (R19). -/
def State.resetFlagElems (s : State) : List Elem := if s.build.logicResetsVf then [.reg 15] else []

/-- The elements other than pc that an instruction may write in `s`. -/
@[simp] def State.written (s : State) : Instr → List Elem
  | .jp _ | .jpV0 _ | .seImm _ _ | .sneImm _ _ | .seReg _ _ | .sneReg _ _ | .skp _ | .sknp _ => []
  | .ret | .call _ => [.stack]
  | .cls => [.fb, .drawFlag]
  | .drw _ _ _ => [.fb, .drawFlag, .reg 15]
  | .ldImm x _ | .addImm x _ | .ldReg x _ | .ldVxDt x | .ldVxK x => [.reg x]
  | .orReg x _ | .andReg x _ | .xorReg x _ => .reg x :: s.resetFlagElems
  | .addReg x _ | .sub x _ | .shr x _ | .subn x _ | .shl x _ => [.reg x, .reg 15]
  | .rnd x _ => [.reg x, .draws]
  | .ldI _ | .addIVx _ | .ldFVx _ => [.index]
  | .ldDtVx _ => [.dt]
  | .ldStVx _ => [.st]
  | .ldBVx _ => s.blockElems 3
  | .ldMemVx x => s.blockElems (x.val + 1) ++ s.bumpElems
  | .ldVxMem x => regElems x ++ s.bumpElems

section
variable {s : State} {n : Nat} {x : Reg} {e : Elem}

@[simp] theorem mem_blockElems : e ∈ s.blockElems n ↔ ∃ k, k < n ∧ e = .byte (s.effAddr k) := by
  simp [State.blockElems, eq_comm]

@[simp] theorem mem_regElems : e ∈ regElems x ↔ ∃ r ≤ x, e = .reg r := by
  simp [regElems, regsUpTo, eq_comm]

@[simp] theorem mem_bumpElems : e ∈ s.bumpElems ↔ s.build.loadstoreIncrementsI = true ∧ e = .index := by
  simp [State.bumpElems]

@[simp] theorem mem_resetFlagElems : e ∈ s.resetFlagElems ↔ s.build.logicResetsVf = true ∧ e = .reg 15 := by
  simp [State.resetFlagElems]

end

/-- An element of the table may change. -/
def MayWrite (i : Instr) (s : State) : Elem → Prop := among (.pc :: s.written i)

@[simp] theorem mayWrite_iff {i : Instr} {s : State} {e : Elem} : MayWrite i s e ↔ e = .pc ∨ e ∈ s.written i :=
  List.mem_cons

theorem mayWrite_pc (i : Instr) (s : State) : MayWrite i s .pc := List.mem_cons_self

/-! ### No effect writes another element -/

theorem onlyChanges_countDraw {may : Elem → Prop} (hdraws : may .draws) (s : State) :
    OnlyChanges may s s.countDraw := by
  intro e he
  cases e with
  | draws => exact absurd hdraws he
  | _ => simp [Same]

theorem onlyChanges_raise {may : Elem → Prop} (hfault : may .fault) (kind : FaultKind) (w : Option Word) (s : State) :
    OnlyChanges may s (s.raise kind w) := by
  intro e he
  cases e with
  | fault => exact absurd hfault he
  | _ => simp [Same]

/-- What an effect changes beside pc stands in the table. -/
theorem effect_onlyChanges {i : Instr} {s t : State} (h : Effect i s t) : OnlyChanges (MayWrite i s) s t := by
  have hpc : MayWrite i s .pc := mayWrite_pc i s
  have hfetch : OnlyChanges (MayWrite i s) s s.afterFetch := onlyChanges_afterFetch hpc s
  cases i with
  | cls =>
    obtain rfl := h
    exact onlyChanges_trans hfetch (onlyChanges_clearScreen (by simp) (by simp) _)
  | drw x y n =>
    obtain ⟨-, rfl⟩ := h
    exact onlyChanges_trans hfetch (onlyChanges_showRaster (by simp) (by simp) (by simp) _ _)
  | ret =>
    obtain ⟨a, rest, -, rfl⟩ := h
    exact onlyChanges_trans hfetch
      (onlyChanges_trans (onlyChanges_setStack (by simp) _ _) (onlyChanges_jumpTo hpc _ _))
  | call nnn =>
    obtain ⟨-, rfl⟩ := h
    exact onlyChanges_trans hfetch
      (onlyChanges_trans (onlyChanges_setStack (by simp) _ _) (onlyChanges_jumpTo hpc _ _))
  | jp nnn | jpV0 nnn =>
    obtain rfl := h
    exact onlyChanges_trans hfetch (onlyChanges_jumpTo hpc _ _)
  | seImm x nn | sneImm x nn | seReg x y | sneReg x y =>
    obtain rfl := h
    exact onlyChanges_trans hfetch (onlyChanges_skipIf hpc _ _)
  | skp x | sknp x =>
    obtain ⟨k, -, rfl⟩ := h
    exact onlyChanges_trans hfetch (onlyChanges_skipIf hpc _ _)
  | ldImm x nn | addImm x nn | ldReg x y | ldVxDt x =>
    obtain rfl := h
    exact onlyChanges_trans hfetch (onlyChanges_setReg (by simp) _ _)
  | ldVxK x =>
    obtain ⟨k, -, rfl⟩ | ⟨-, rfl⟩ := h
    · exact onlyChanges_trans hfetch (onlyChanges_setReg (by simp) _ _)
    · exact onlyChanges_trans hfetch (onlyChanges_jumpTo hpc _ _)
  | rnd x nn =>
    obtain rfl := h
    exact onlyChanges_trans hfetch
      (onlyChanges_trans (onlyChanges_countDraw (by simp) _) (onlyChanges_setReg (by simp) _ _))
  | orReg x y | andReg x y | xorReg x y =>
    obtain rfl := h
    refine onlyChanges_trans hfetch (onlyChanges_setLogicResult (by simp) (fun hreset => ?_) _)
    exact mayWrite_iff.2 (.inr (.tail _ (mem_resetFlagElems.2 ⟨hreset, rfl⟩)))
  | addReg x y | sub x y | shr x y | subn x y | shl x y =>
    obtain rfl := h
    exact onlyChanges_trans hfetch (onlyChanges_setRegThenFlag (by simp) (by simp) _ _ _)
  | ldI nnn | addIVx x =>
    obtain rfl := h
    exact onlyChanges_trans hfetch (onlyChanges_setIndex (by simp) _ _)
  | ldFVx x =>
    obtain ⟨d, -, rfl⟩ := h
    exact onlyChanges_trans hfetch (onlyChanges_setIndex (by simp) _ _)
  | ldDtVx x =>
    obtain rfl := h
    exact onlyChanges_trans hfetch (onlyChanges_setDelay (by simp) _ _)
  | ldStVx x =>
    obtain rfl := h
    exact onlyChanges_trans hfetch (onlyChanges_setSound (by simp) _ _)
  | ldBVx x =>
    obtain ⟨-, rfl⟩ := h
    exact onlyChanges_trans hfetch (onlyChanges_storeAtIndex fun k hk => .tail _ (mem_blockElems.2 ⟨k, hk, rfl⟩))
  | ldMemVx x =>
    obtain ⟨-, rfl⟩ := h
    refine onlyChanges_trans hfetch (onlyChanges_trans (onlyChanges_storeAtIndex fun k hk => ?_)
      (onlyChanges_bumpIndex (fun hinc => ?_) x))
    · rw [length_regBlock] at hk
      exact .tail _ (List.mem_append_left _ (mem_blockElems.2 ⟨k, hk, rfl⟩))
    · exact .tail _ (List.mem_append_right _ (mem_bumpElems.2 ⟨hinc, rfl⟩))
  | ldVxMem x =>
    obtain ⟨-, rfl⟩ := h
    refine onlyChanges_trans hfetch (onlyChanges_trans (onlyChanges_loadRegBlock (fun k hk => ?_) _)
      (onlyChanges_bumpIndex (fun hinc => ?_) x))
    · exact .tail _ (List.mem_append_left _ (mem_regElems.2 ⟨k, hk, rfl⟩))
    · exact .tail _ (List.mem_append_right _ (mem_bumpElems.2 ⟨hinc, rfl⟩))

theorem same_of_effect {i : Instr} {s t : State} {e : Elem} (h : Effect i s t) (hpc : e ≠ .pc)
    (hno : e ∉ s.written i) : Same s t e :=
  effect_onlyChanges h e fun hmay => hno ((mayWrite_iff.1 hmay).resolve_left hpc)

/-- An element other than pc and the fault record that a tick changes is in the table of the instruction that it ran. -/
theorem step_changes {s t : State} {e : Elem} (h : step s = .next t) (hne : ¬ Same s t e) (hfault : e ≠ .fault)
    (hpc : e ≠ .pc) : ∃ i, Fetches s i ∧ Effect i s t ∧ e ∈ s.written i := by
  by_cases hf : s.fault = none
  · obtain ⟨kind, w, rfl⟩ | ⟨i, hfetch, -, heffect⟩ := step_raises_or_runs hf h
    · exact absurd (onlyChanges_raise (may := (· = .fault)) rfl kind w s e hfault) hne
    · exact ⟨i, hfetch, heffect, by_contra fun hno => hne (same_of_effect heffect hpc hno)⟩
  · cases (step_halted hf).symm.trans h
    exact absurd (onlyChanges_refl (fun _ => False) s e id) hne

/-- An element that no row names is the same after a tick. -/
theorem step_same {s t : State} {e : Elem} (h : step s = .next t) (hfault : e ≠ .fault) (hpc : e ≠ .pc)
    (hno : ∀ i, e ∉ s.written i) : Same s t e := by
  by_contra hne
  obtain ⟨i, -, -, hi⟩ := step_changes h hne hfault hpc
  exact hno i hi

/-- A tick that records no fault has the effect of the instruction that it fetches. -/
theorem effect_of_step {i : Instr} {s t : State} (hfetch : Fetches s i) (h : step s = .next t)
    (hfault : t.fault = none) : Effect i s t := by
  rw [step_of_fetches hfetch] at h
  obtain ⟨kind, rfl⟩ | heffect := exec_cases h
  · simp at hfault
  · exact heffect

/-! ### The rows that name an element -/

section
variable {i : Instr} {s : State}

theorem screen_written (h : .fb ∈ s.written i ∨ .drawFlag ∈ s.written i) :
    i = .cls ∨ ∃ x y n, i = .drw x y n := by
  cases i with
  | cls => exact .inl rfl
  | drw x y n => exact .inr ⟨x, y, n, rfl⟩
  | _ => simp at h

theorem byte_written {a : Nat} (h : .byte a ∈ s.written i) :
    (∃ x, i = .ldBVx x ∧ ∃ k, k < 3 ∧ a = s.effAddr k) ∨
    (∃ x, i = .ldMemVx x ∧ ∃ k, k < x.val + 1 ∧ a = s.effAddr k) := by
  cases i with
  | ldBVx x => exact .inl ⟨x, rfl, by simpa using h⟩
  | ldMemVx x => exact .inr ⟨x, rfl, by simpa using h⟩
  | _ => simp at h

/-- R43's two lists. -/
theorem reg_written {r : Reg} (h : .reg r ∈ s.written i) :
    NamesDestination r i ∨ (r = 15 ∧ WritesFlag s.build i) := by
  cases i with
  | ldImm x nn | addImm x nn | rnd x nn | ldReg x y | ldVxDt x | ldVxK x | ldVxMem x =>
    exact .inl (by simpa [NamesDestination] using h)
  | drw x y n => exact .inr ⟨by simpa using h, trivial⟩
  | addReg x y | sub x y | shr x y | subn x y | shl x y =>
    obtain rfl | rfl : r = x ∨ r = 15 := by simpa using h
    · exact .inl rfl
    · exact .inr ⟨rfl, trivial⟩
  | orReg x y | andReg x y | xorReg x y =>
    obtain rfl | ⟨hreset, rfl⟩ : r = x ∨ s.build.logicResetsVf = true ∧ r = 15 := by simpa using h
    · exact .inl rfl
    · exact .inr ⟨rfl, hreset⟩
  | _ => simp at h

theorem stack_written (h : .stack ∈ s.written i) : i = .ret ∨ ∃ nnn, i = .call nnn := by
  cases i with
  | ret => exact .inl rfl
  | call nnn => exact .inr ⟨nnn, rfl⟩
  | _ => simp at h

theorem index_written (h : .index ∈ s.written i) :
    (∃ nnn, i = .ldI nnn) ∨ (∃ x, i = .addIVx x ∨ i = .ldFVx x) ∨
    (s.build.loadstoreIncrementsI = true ∧ ∃ x, i = .ldMemVx x ∨ i = .ldVxMem x) := by
  cases i with
  | ldI nnn => exact .inl ⟨nnn, rfl⟩
  | addIVx x => exact .inr (.inl ⟨x, .inl rfl⟩)
  | ldFVx x => exact .inr (.inl ⟨x, .inr rfl⟩)
  | ldMemVx x => exact .inr (.inr ⟨by simpa using h, x, .inl rfl⟩)
  | ldVxMem x => exact .inr (.inr ⟨by simpa using h, x, .inr rfl⟩)
  | _ => simp at h

theorem dt_written (h : .dt ∈ s.written i) : ∃ x, i = .ldDtVx x := by
  cases i with
  | ldDtVx x => exact ⟨x, rfl⟩
  | _ => simp at h

theorem st_written (h : .st ∈ s.written i) : ∃ x, i = .ldStVx x := by
  cases i with
  | ldStVx x => exact ⟨x, rfl⟩
  | _ => simp at h

theorem draws_written (h : .draws ∈ s.written i) : ∃ x nn, i = .rnd x nn := by
  cases i with
  | rnd x nn => exact ⟨x, nn, rfl⟩
  | _ => simp at h

/-- No row names the key state (R51). -/
theorem keys_not_written : .keys ∉ s.written i := by cases i <;> simp

/-- No row names rom_loaded (R52). -/
theorem romLoaded_not_written : .romLoaded ∉ s.written i := by cases i <;> simp

/-- No row names the build parameters (R56). -/
theorem build_not_written : .build ∉ s.written i := by cases i <;> simp

end

/-! ### The statements about who writes what -/

theorem step_build {s t : State} (h : step s = .next t) : t.build = s.build :=
  step_same (e := .build) h nofun nofun fun _ => build_not_written

/-- CLS and DRW set the redraw flag (R50). -/
theorem drawFlag_of_effect {i : Instr} {s t : State} (hi : i = .cls ∨ ∃ x y n, i = .drw x y n) (h : Effect i s t) :
    t.drawFlag = true := by
  obtain rfl | ⟨x, y, n, rfl⟩ := hi
  · obtain rfl := h
    rfl
  · obtain ⟨-, rfl⟩ := h
    rfl

/-- Settles O41: CLS and DRW are the rows of the framebuffer and of the redraw flag, and both set the flag. -/
theorem onlyClsAndDrwTouchScreen : Obligations.OnlyClsAndDrwTouchScreen := by
  unfold Obligations.OnlyClsAndDrwTouchScreen
  refine fun s t h => ⟨fun hne => ?changed, fun hran hfault => ?set⟩
  case changed =>
    obtain ⟨i, hfetch, hi⟩ : ∃ i, Fetches s i ∧ (.fb ∈ s.written i ∨ .drawFlag ∈ s.written i) := by
      obtain hfb | hflag := hne
      · obtain ⟨i, hfetch, -, hi⟩ := step_changes (e := .fb) h hfb nofun nofun
        exact ⟨i, hfetch, .inl hi⟩
      · obtain ⟨i, hfetch, -, hi⟩ := step_changes (e := .drawFlag) h hflag nofun nofun
        exact ⟨i, hfetch, .inr hi⟩
    obtain rfl | ⟨x, y, n, rfl⟩ := screen_written hi
    · exact .inl hfetch
    · exact .inr ⟨x, y, n, hfetch⟩
  case set =>
    obtain hfetch | ⟨x, y, n, hfetch⟩ := hran
    · exact drawFlag_of_effect (.inl rfl) (effect_of_step hfetch h hfault)
    · exact drawFlag_of_effect (.inr ⟨x, y, n, rfl⟩) (effect_of_step hfetch h hfault)

/-- Settles O42: the rows that name a byte are those of FX33 and FX55, with their blocks. -/
theorem onlyTwoInstructionsStore : Obligations.OnlyTwoInstructionsStore := by
  unfold Obligations.OnlyTwoInstructionsStore
  intro s t a h hne
  obtain ⟨i, hfetch, -, hi⟩ := step_changes (e := .byte a) h hne nofun nofun
  obtain ⟨x, rfl, hblock⟩ | ⟨x, rfl, hblock⟩ := byte_written hi
  · exact .inl ⟨x, hfetch, hblock⟩
  · exact .inr ⟨x, hfetch, hblock⟩

/-- Settles O43: a row names a register as the destination or as the flag. -/
theorem registersChangeOnlyAsNamed : Obligations.RegistersChangeOnlyAsNamed := by
  unfold Obligations.RegistersChangeOnlyAsNamed
  intro s t r h hne
  obtain ⟨i, hfetch, -, hi⟩ := step_changes (e := .reg r) h hne nofun nofun
  exact ⟨i, hfetch, reg_written hi⟩

/-- Settles O44: the rows of the stack, of I and of the timers; no row names an input or the parameters. -/
theorem specialRegistersHaveTheirWriters : Obligations.SpecialRegistersHaveTheirWriters := by
  unfold Obligations.SpecialRegistersHaveTheirWriters
  intro s t h
  refine ⟨fun hne => ?stack, fun hne => ?index, fun hne => ?dt, fun hne => ?st,
    step_same (e := .keys) h nofun nofun fun _ => keys_not_written,
    step_same (e := .romLoaded) h nofun nofun fun _ => romLoaded_not_written, step_build h⟩
  case stack =>
    obtain ⟨i, hfetch, -, hi⟩ := step_changes (e := .stack) h hne nofun nofun
    obtain rfl | ⟨nnn, rfl⟩ := stack_written hi
    · exact .inl hfetch
    · exact .inr ⟨nnn, hfetch⟩
  case index =>
    obtain ⟨i, hfetch, -, hi⟩ := step_changes (e := .index) h hne nofun nofun
    obtain ⟨nnn, rfl⟩ | ⟨x, rfl | rfl⟩ | ⟨hinc, x, rfl | rfl⟩ := index_written hi
    · exact .inl ⟨nnn, hfetch⟩
    · exact .inr (.inl ⟨x, .inl hfetch⟩)
    · exact .inr (.inl ⟨x, .inr hfetch⟩)
    · exact .inr (.inr ⟨hinc, x, .inl hfetch⟩)
    · exact .inr (.inr ⟨hinc, x, .inr hfetch⟩)
  case dt =>
    obtain ⟨i, hfetch, -, hi⟩ := step_changes (e := .dt) h hne nofun nofun
    obtain ⟨x, rfl⟩ := dt_written hi
    exact ⟨x, hfetch⟩
  case st =>
    obtain ⟨i, hfetch, -, hi⟩ := step_changes (e := .st) h hne nofun nofun
    obtain ⟨x, rfl⟩ := st_written hi
    exact ⟨x, hfetch⟩

/-! ### The host's transactions -/

theorem step_of_transact_tick {s t : State} {reply : Reply} (h : transact .tick s = .next (t, reply)) :
    step s = .next t := by
  obtain ⟨u, hu⟩ := step_answers_next s
  cases (transact_tick hu).symm.trans h
  exact hu

theorem loadRom_build (rom : List Byte) (s : State) : (s.loadRom rom).1.build = s.build := by
  unfold State.loadRom
  split <;> rfl

theorem loadRom_draws (rom : List Byte) (s : State) : (s.loadRom rom).1.draws = s.draws := by
  unfold State.loadRom
  split <;> rfl

/-- Settles O54: CXNN's is the one row that names the draw number, and the other transactions carry both fields on. -/
theorem parametersStayAndOracleGoesOn : Obligations.ParametersStayAndOracleGoesOn := by
  unfold Obligations.ParametersStayAndOracleGoesOn
  intro tr s t reply h
  cases tr with
  | tick =>
    have hstep : step s = .next t := step_of_transact_tick h
    refine ⟨step_build hstep, ?_⟩
    by_cases hsame : t.draws = s.draws
    · exact .inl hsame
    · obtain ⟨i, hfetch, heffect, hi⟩ := step_changes (e := .draws) hstep hsame nofun nofun
      obtain ⟨x, nn, rfl⟩ := draws_written hi
      obtain rfl := heffect
      exact .inr ⟨rfl, rfl, x, nn, hfetch⟩
  | loadRom rom =>
    cases h
    exact ⟨loadRom_build rom s, .inl (loadRom_draws rom s)⟩
  | _ =>
    cases h
    exact ⟨rfl, .inl rfl⟩

end Sys2Proof.Machine
end

section
/-! PROOFS. Where an instruction leaves pc (40_cycle.md R133, 41_control_flow.md, 42_skips.md R160). One table, tied to
the effects by one lemma; the advance by 2 or 4 does not wrap, since a fetch is at 0xFFE at most. -/

namespace Sys2Proof.Machine

open Sys2Proof.Claims

/-- `pc` is a value that the instruction may leave in the program counter. -/
def NextPc (s : State) (pc : Word) : Instr → Prop
  | .ret => pc ∈ s.stack
  | .jp nnn | .call nnn => pc = zextAddr nnn
  | .jpV0 nnn => ∃ offset, pc = zextAddr nnn + zextByte offset
  | .ldVxK _ => pc = s.pc + 2 ∨ pc = s.pc
  | .seImm _ _ | .sneImm _ _ | .seReg _ _ | .sneReg _ _ | .skp _ | .sknp _ => pc = s.pc + 2 ∨ pc = s.pc + 4
  | .cls | .ldImm _ _ | .addImm _ _ | .ldReg _ _ | .orReg _ _ | .andReg _ _ | .xorReg _ _ | .addReg _ _ | .sub _ _
  | .shr _ _ | .subn _ _ | .shl _ _ | .ldI _ | .rnd _ _ | .drw _ _ _ | .ldVxDt _ | .ldDtVx _ | .ldStVx _ | .addIVx _
  | .ldFVx _ | .ldBVx _ | .ldMemVx _ | .ldVxMem _ => pc = s.pc + 2

/-- A skip is narrow or wide. -/
theorem skipIf_afterFetch_pc_cases (c : Bool) (s : State) :
    (s.afterFetch.skipIf c).pc = s.pc + 2 ∨ (s.afterFetch.skipIf c).pc = s.pc + 4 := by
  rw [skipIf_afterFetch_pc]
  cases c with
  | false => exact .inl rfl
  | true => exact .inr rfl

/-- An effect leaves pc as the table says. -/
theorem effect_nextPc {i : Instr} {s t : State} (h : Effect i s t) : NextPc s t.pc i := by
  cases i with
  | ret =>
    obtain ⟨a, rest, hstack, rfl⟩ := h
    simp [NextPc, hstack]
  | jp nnn =>
    obtain rfl := h
    rfl
  | call nnn =>
    obtain ⟨-, rfl⟩ := h
    rfl
  | jpV0 nnn =>
    obtain rfl := h
    exact ⟨_, rfl⟩
  | ldVxK x =>
    obtain ⟨k, -, rfl⟩ | ⟨-, rfl⟩ := h
    · exact .inl rfl
    · exact .inr rfl
  | seImm x nn | sneImm x nn | seReg x y | sneReg x y =>
    obtain rfl := h
    exact skipIf_afterFetch_pc_cases _ s
  | skp x | sknp x =>
    obtain ⟨k, -, rfl⟩ := h
    exact skipIf_afterFetch_pc_cases _ s
  | ldFVx x =>
    obtain ⟨d, -, rfl⟩ := h
    rfl
  | drw x y n | ldBVx x | ldMemVx x | ldVxMem x =>
    obtain ⟨-, rfl⟩ := h
    simp [NextPc]
  | _ =>
    obtain rfl := h
    simp [NextPc]

/-- A fetched word is within memory, so the address after it, or after the next, is an exact sum. -/
theorem pc_add_two_toNat {pc : Word} (hpc : pc.toNat ≤ 0xFFE) : (pc + 2).toNat = pc.toNat + 2 := by
  bv_omega

theorem pc_add_four_toNat {pc : Word} (hpc : pc.toNat ≤ 0xFFE) : (pc + 4).toNat = pc.toNat + 4 := by
  bv_omega

/-- The two addresses of a skip as numbers. -/
theorem skip_pc_toNat {s : State} {pc : Word} (hpc : s.pc.toNat ≤ 0xFFE) (h : pc = s.pc + 2 ∨ pc = s.pc + 4) :
    pc.toNat = s.pc.toNat + 2 ∨ pc.toNat = s.pc.toNat + 4 := by
  obtain rfl | rfl := h
  · exact .inl (pc_add_two_toNat hpc)
  · exact .inr (pc_add_four_toNat hpc)

/-- Settles O16: the table's rows of pc + 2 and of the skips, as numbers. -/
theorem pcAdvancesByTwo : Obligations.PcAdvancesByTwo := by
  unfold Obligations.PcAdvancesByTwo
  intro s i t hfetch hstep hfault
  have hnext : NextPc s t.pc i := effect_nextPc (effect_of_step hfetch hstep hfault)
  obtain ⟨-, -, hpc, -⟩ := hfetch
  cases i with
  | ret | jp | call | jpV0 | ldVxK => trivial
  | seImm | sneImm | seReg | sneReg | skp | sknp => exact skip_pc_toNat hpc hnext
  | _ => exact (congrArg BitVec.toNat hnext).trans (pc_add_two_toNat hpc)

end Sys2Proof.Machine
end

section
/-! PROOFS. The invariant of Safety.lean. It holds after RESET of any block in the spec's range; an effect keeps each
clause, and a raised fault is precise; LOAD_ROM writes above the font; so every transaction keeps it, and every
schedule. -/

namespace Sys2Proof.Machine

open Sys2Proof.Claims

/-! ### The clauses that an effect keeps -/

section
variable {i : Instr} {s t : State}

/-- Stores alone change memory's list of cells, and they keep it canonical. -/
theorem memWf_of_effect (hwf : s.memWf = true) (h : Effect i s t) : t.memWf = true := by
  have hkept : ∀ {u : State}, u.mem = s.mem → u.build = s.build → u.memWf = true :=
    fun hmem hbuild => (State.memWf_congr hmem hbuild).trans hwf
  cases i with
  | ret =>
    obtain ⟨a, rest, -, rfl⟩ := h
    exact hkept rfl rfl
  | ldVxK x => obtain ⟨k, -, rfl⟩ | ⟨-, rfl⟩ := h <;> exact hkept rfl rfl
  | skp x | sknp x | ldFVx x =>
    obtain ⟨k, -, rfl⟩ := h
    exact hkept (by simp) (by simp)
  | call nnn | drw x y n | ldVxMem x =>
    obtain ⟨-, rfl⟩ := h
    exact hkept (by simp) (by simp)
  | ldBVx x =>
    obtain ⟨-, rfl⟩ := h
    exact State.memWf_writeFrom (s := s.afterFetch) _ _ hwf
  | ldMemVx x =>
    obtain ⟨-, rfl⟩ := h
    rw [State.memWf_congr (State.bumpIndex_mem x _) (State.bumpIndex_build x _)]
    exact State.memWf_writeFrom (s := s.afterFetch) _ _ hwf
  | _ =>
    obtain rfl := h
    exact hkept (by simp) (by simp)

/-- Both policies protect the font (20_memory.md R88). -/
theorem writeProtected_font {a : Nat} (policy : LowWritePolicy) (ha : a < fontSize) :
    writeProtected policy a = true := by
  rw [writeProtected_iff]
  unfold fontSize at ha
  split <;> omega

/-- A store whose checks passed does not reach the font. -/
theorem font_not_written {a : Nat} (ha : a < fontSize) (h : Effect i s t) : .byte a ∉ s.written i := by
  have hchecked : ∀ {n k : Nat}, s.storeCheck n = none → k < n → a ≠ s.effAddr k := by
    rintro n k hcheck hk rfl
    have hfree := (storeCheck_eq_none.1 hcheck).2 k hk
    simp [writeProtected_font _ ha] at hfree
  intro hwritten
  obtain ⟨x, rfl, k, hk, hak⟩ | ⟨x, rfl, k, hk, hak⟩ := byte_written hwritten
  · exact hchecked h.1 hk hak
  · exact hchecked h.1 hk hak

theorem readByte_font_of_effect {a : Nat} (ha : a < fontSize) (h : Effect i s t) : t.readByte a = s.readByte a :=
  same_of_effect (e := .byte a) h nofun (font_not_written ha h)

/-- The stack stays, loses its top, or takes the advanced pc where it has room. -/
theorem stack_of_effect (h : Effect i s t) :
    t.stack = s.stack ∨ (∃ a, s.stack = a :: t.stack) ∨
    (s.stack.length < s.build.stackDepth ∧ t.stack = (s.pc + 2) :: s.stack) := by
  by_cases hi : .stack ∈ s.written i
  · obtain rfl | ⟨nnn, rfl⟩ := stack_written hi
    · obtain ⟨a, rest, hstack, rfl⟩ := h
      exact .inr (.inl ⟨a, hstack⟩)
    · obtain ⟨hroom, rfl⟩ := h
      exact .inr (.inr ⟨hroom, rfl⟩)
  · exact .inl (same_of_effect (e := .stack) h nofun hi)

/-- R45: the highest pc is the target of JP V0, 0xFFF + 0xFF. -/
theorem nextPc_le {pc : Word} (hpc : s.pc.toNat ≤ 0xFFE) (hstack : ∀ a ∈ s.stack, a.toNat ≤ 0x1000)
    (h : NextPc s pc i) : pc.toNat ≤ 0x10FE := by
  cases i with
  | ret => exact (hstack pc h).trans (by decide)
  | jp nnn | call nnn =>
    obtain rfl := h
    rw [zextAddr_toNat]
    omega
  | jpV0 nnn =>
    obtain ⟨offset, rfl⟩ := h
    rw [zextAddr_add_zextByte_toNat]
    omega
  | ldVxK x =>
    obtain rfl | rfl := h
    · rw [pc_add_two_toNat hpc]
      omega
    · omega
  | seImm | sneImm | seReg | sneReg | skp | sknp =>
    obtain hnarrow | hwide := skip_pc_toNat hpc h
    · omega
    · omega
  | _ =>
    rw [show pc = s.pc + 2 from h, pc_add_two_toNat hpc]
    omega

/-! ### A tick keeps the invariant -/

/-- An instruction that has its effect keeps every clause. -/
theorem inv_of_effect (hinv : s.Inv) (hf : s.fault = none) (hpc : s.pc.toNat ≤ 0xFFE) (h : Effect i s t) : t.Inv := by
  obtain ⟨hwf, hfont, hbuild, hbounded, hentries, -, -⟩ := hinv
  obtain ⟨hfault, -, -, hparams⟩ := effect_keeps h
  refine ⟨memWf_of_effect hwf h, fun a ha => ?font, hparams ▸ hbuild, ?bounded, ?entries,
    nextPc_le hpc hentries (effect_nextPc h), fun r hr => ?fault⟩
  case font =>
    rw [readByte_font_of_effect ha h, hfont a ha]
    simp only [hparams]
  case bounded =>
    rw [hparams]
    obtain hsame | ⟨a, hpop⟩ | ⟨hroom, hpush⟩ := stack_of_effect h
    · rwa [hsame]
    · rw [hpop, List.length_cons] at hbounded
      omega
    · rw [hpush, List.length_cons]
      omega
  case entries =>
    obtain hsame | ⟨a, hpop⟩ | ⟨-, hpush⟩ := stack_of_effect h
    · rwa [hsame]
    · exact fun b hb => hentries b (hpop ▸ List.mem_cons_of_mem a hb)
    · rw [hpush]
      refine List.forall_mem_cons.2 ⟨?_, hentries⟩
      rw [pc_add_two_toNat hpc]
      omega
  case fault =>
    rw [hfault, hf] at hr
    cases hr

/-- The clauses but the last speak of memory, the parameters, the stack and pc only. -/
theorem inv_of_same (hinv : s.Inv) (hmem : t.mem = s.mem) (hbuild : t.build = s.build) (hstack : t.stack = s.stack)
    (hpc : t.pc = s.pc)
    (hfault : ∀ r, t.fault = some r →
      r.pcAt = t.pc ∧ (r.word = none ↔ r.kind = .fetchOutOfBounds ∨ r.kind = .missingRom)) : t.Inv := by
  obtain ⟨hwf, hfont, hparams, hbounded, hentries, hpcBounded, -⟩ := hinv
  refine ⟨(State.memWf_congr hmem hbuild).trans hwf, fun a ha => ?font, hbuild ▸ hparams, ?bounded,
    hstack ▸ hentries, hpc ▸ hpcBounded, hfault⟩
  case font =>
    rw [State.readByte_congr hmem hbuild, hfont a ha]
    simp only [hbuild]
  case bounded => rwa [hstack, hbuild]

/-- R53, R259: the record of a tick's fault is precise. -/
theorem faultRecord_precise (s : State) (kind : FaultKind) :
    (s.faultRecord kind).pcAt = s.pc ∧
    ((s.faultRecord kind).word = none ↔ kind = .fetchOutOfBounds ∨ kind = .missingRom) := by
  simp [State.faultRecord, or_iff_not_imp_left]

/-- In HALTED the state stays, a raised fault is precise, and an instruction keeps every clause. -/
theorem step_keeps_inv (hinv : s.Inv) (h : step s = .next t) : t.Inv := by
  by_cases hf : s.fault = none
  · obtain ⟨kind, w, rfl⟩ | ⟨i, ⟨-, -, hpc, -⟩, -, heffect⟩ := step_raises_or_runs hf h
    · refine inv_of_same hinv rfl rfl rfl rfl fun r hr => ?_
      obtain hnone | ⟨kind', -, hrecord⟩ := step_fault hf hinv.stackBounded h
      · cases hnone
      · cases hrecord.symm.trans hr
        exact faultRecord_precise s kind'
    · exact inv_of_effect hinv hf hpc heffect
  · cases (step_halted hf).symm.trans h
    exact hinv

/-! ### The other transactions keep the invariant -/

/-- RESET meets the invariant, for every block whose parameters are in range. -/
theorem inv_resetBlock (hbuild : s.build.wellFormed = true) : s.resetBlock.Inv where
  memWf := rfl
  fontIntact a ha := unlistedByte_font a ha
  buildWf := hbuild
  stackBounded := Nat.zero_le _
  stackEntries := nofun
  pcBounded := show (0x0200#16).toNat ≤ 0x10FE by decide
  faultPrecise := nofun

/-- A ROM that fits lies above the font, so every clause is kept. -/
theorem inv_placeRom (hinv : s.Inv) (rom : List Byte) : (s.placeRom rom).Inv where
  memWf := State.memWf_writeFrom programBase rom hinv.memWf
  fontIntact a ha := by
    have hbelow : a < programBase := ha.trans (by decide)
    exact (State.readByte_writeFrom_outside (s := s) rom (.inl hbelow)).trans (hinv.fontIntact a ha)
  buildWf := hinv.buildWf
  stackBounded := hinv.stackBounded
  stackEntries := hinv.stackEntries
  pcBounded := hinv.pcBounded
  faultPrecise := hinv.faultPrecise

theorem inv_loadRom (hinv : s.Inv) (rom : List Byte) : (s.loadRom rom).1.Inv := by
  unfold State.loadRom
  split
  · exact inv_placeRom hinv rom
  · exact hinv

/-- Every transaction of the host keeps the invariant. -/
theorem transact_keeps_inv {tr : Transaction} {reply : Reply} (hinv : s.Inv)
    (h : transact tr s = .next (t, reply)) : t.Inv := by
  cases tr with
  | tick => exact step_keeps_inv hinv (step_of_transact_tick h)
  | reset =>
    cases h
    exact inv_resetBlock hinv.buildWf
  | loadRom rom =>
    cases h
    exact inv_loadRom hinv rom
  | timerTick | keySet | ackFrame =>
    cases h
    exact inv_of_same hinv rfl rfl rfl rfl hinv.faultPrecise
  | fbRead | drawFlag | tone | faultStatus =>
    cases h
    exact hinv

/-- So does every schedule. -/
theorem runSchedule_keeps_inv {ts : List Transaction} (hinv : s.Inv) (h : runSchedule ts s = .next t) : t.Inv := by
  induction ts generalizing s with
  | nil =>
    cases h
    exact hinv
  | cons tr ts ih =>
    rw [runSchedule] at h
    split at h
    case h_1 u reply hu => exact ih (transact_keeps_inv hinv hu) h
    case h_2 | h_3 => cases h

end

/-! ### The statements about the invariant -/

/-- Settles O57: a tick keeps the state, records a precise fault, or has an effect that keeps every clause. -/
theorem stepKeepsInvariant : Obligations.StepKeepsInvariant := by
  unfold Obligations.StepKeepsInvariant
  exact fun _ _ => step_keeps_inv

/-- Settles O59: the tick by O57's lemma, RESET afresh, LOAD_ROM above the font. -/
theorem transactionsKeepInvariant : Obligations.TransactionsKeepInvariant := by
  unfold Obligations.TransactionsKeepInvariant
  exact fun _ _ _ _ => transact_keeps_inv

/-- Settles O56: the reset state is its own RESET. -/
theorem resetMeetsInvariant : Obligations.ResetMeetsInvariant := by
  unfold Obligations.ResetMeetsInvariant
  rw [← State.resetBlock_reset]
  exact inv_resetBlock rfl

/-- Settles O58, by induction on the schedule; the state it starts from is its own RESET. -/
theorem reachableStatesMeetInvariant : Obligations.ReachableStatesMeetInvariant := by
  unfold Obligations.ReachableStatesMeetInvariant
  rintro s ⟨b, n, ts, hbuild, hrun⟩
  have hstart : State.Inv { State.reset with build := b, draws := n } :=
    inv_resetBlock (s := { State.reset with build := b, draws := n }) hbuild
  exact runSchedule_keeps_inv hstart hrun

end Sys2Proof.Machine
end

section
/-! PROOFS. Memory's canonical form (20_memory.md R84, log 4). Two canonical lists that read alike begin with the same
cell: at the lower of two different first addresses one list reads its own byte, the other the unlisted byte, and a
canonical list holds no unlisted byte. -/

namespace Sys2Proof.Machine

open Sys2Proof.Claims

variable {font : FontTable}

/-- Two memories read the same at each of the 4096 addresses. -/
def Memory.ReadsAlike (font : FontTable) (m m' : Memory) : Prop := ∀ a, a < memSize → m.read font a = m'.read font a

/-- A listed cell reads as no memory does in which the address lies below every listed one. -/
theorem Memory.read_cons_ne_below {lo a : Nat} {b : Byte} {m m' : Memory}
    (h : Memory.wfFrom font lo ((a, b) :: m) = true) (h' : Memory.wfFrom font (a + 1) m' = true) :
    ¬ Memory.ReadsAlike font ((a, b) :: m) m' := by
  obtain ⟨-, ha, hb, -⟩ := Memory.wfFrom_cons.1 h
  intro halike
  have hread := halike a ha
  rw [Memory.read_cons, if_pos rfl, Memory.read_below h' a.lt_succ_self] at hread
  exact hb hread

/-- Canonical lists with one first cell that read alike have tails that read alike. -/
theorem Memory.readsAlike_tail {a : Nat} {b b' : Byte} {m m' : Memory} (h : Memory.wfFrom font (a + 1) m = true)
    (h' : Memory.wfFrom font (a + 1) m' = true) (halike : Memory.ReadsAlike font ((a, b) :: m) ((a, b') :: m')) :
    Memory.ReadsAlike font m m' := by
  intro c hc
  by_cases hca : a = c
  · rw [Memory.read_below h (by omega), Memory.read_below h' (by omega)]
  · simpa only [Memory.read_cons, if_neg hca] using halike c hc

/-- Canonical memories that read alike are equal. -/
theorem Memory.eq_of_readsAlike {lo : Nat} {m m' : Memory} (h : Memory.wfFrom font lo m = true)
    (h' : Memory.wfFrom font lo m' = true) (halike : Memory.ReadsAlike font m m') : m = m' := by
  induction m generalizing lo m' with
  | nil =>
    cases m' with
    | nil => rfl
    | cons c' m' => exact absurd (fun a ha => (halike a ha).symm) (Memory.read_cons_ne_below h' rfl)
  | cons c m ih =>
    cases m' with
    | nil => exact absurd halike (Memory.read_cons_ne_below h rfl)
    | cons c' m' =>
      obtain ⟨a, b⟩ := c
      obtain ⟨a', b'⟩ := c'
      obtain ⟨hlo, hmem, hlisted, htail⟩ := Memory.wfFrom_cons.1 h
      obtain ⟨hlo', hmem', hlisted', htail'⟩ := Memory.wfFrom_cons.1 h'
      obtain hlt | rfl | hgt := lt_trichotomy a a'
      · exact absurd halike
          (Memory.read_cons_ne_below h (Memory.wfFrom_cons.2 ⟨hlt, hmem', hlisted', htail'⟩))
      · have hbyte : b = b' := by simpa [Memory.read_cons] using halike a hmem
        rw [hbyte, ih htail htail' (Memory.readsAlike_tail htail htail' halike)]
      · exact absurd (fun c hc => (halike c hc).symm)
          (Memory.read_cons_ne_below h' (Memory.wfFrom_cons.2 ⟨hgt, hmem, hlisted, htail⟩))

/-- Settles O48: the laws of one write, and the canonical form. -/
theorem memoryReadsLastWrite : Obligations.MemoryReadsLastWrite := by
  unfold Obligations.MemoryReadsLastWrite
  refine fun font => ⟨fun m a b hwf ha => ⟨Memory.wf_write a b hwf, Memory.read_write_same b hwf ha, ?_⟩,
    fun m m' => Memory.eq_of_readsAlike⟩
  exact fun c hne => Memory.read_write_other m hne

end Sys2Proof.Machine
end

section
/-! PROOFS. Two sequences through memory: what FX55 stored is what the next fetch sees (20_memory.md R93), and FX29 leads
to the rows of a glyph (10_state.md R47). -/

namespace Sys2Proof.Machine

open Sys2Proof.Claims

/-- Settles O47: O33 says that Vk and V(k+1) stand where the fetch reads. -/
theorem storedBytesAreFetched : Obligations.StoredBytesAreFetched := by
  unfold Obligations.StoredBytesAreFetched
  intro x k k' s t hwf hexec hend hfree hk' hle hpc
  obtain ⟨-, hruns, -⟩ := storeRegistersToMemory x s hwf
  obtain ⟨u, hu, -, hread, -⟩ := hruns hend hfree
  cases hu.symm.trans hexec
  have hhigh : t.readByte t.pc.toNat = s.reg k := by
    rw [hpc, hread k (le_trans (Fin.le_iff_val_le_val.2 (by omega)) hle)]
  have hlow : t.readByte (t.pc.toNat + 1) = s.reg k' := by
    rw [hpc, Nat.add_assoc, ← hk', hread k' hle]
  rw [fetchedNumber, hhigh, hlow]

/-- Settles O60: I is 5*d, whose five bytes lie in the font, and the font holds FONT_TABLE. -/
theorem glyphRowsStandAtI : Obligations.GlyphRowsStandAtI := by
  unfold Obligations.GlyphRowsStandAtI
  intro x d s hinv hd
  obtain ⟨t, hexec, hframe, hindex, -⟩ := runs_setIndex (exec_ldFVx_of_digit hd) (glyphAddress_toNat d)
  refine ⟨t, hexec, hframe, fun r => ?_⟩
  have hrow : 5 * d.val + r.val < fontSize := by
    unfold fontSize
    omega
  rw [hindex, hframe (.byte _) (by simp [among]), hinv.fontIntact _ hrow]

end Sys2Proof.Machine
end

section
/-! PROOFS. Which instructions the timers and the keys reach (10_state.md R48, R51). An update of the three input fields
passes through every execution but those of the instructions that read or write a field it changes; the timer tick and
another key state are two such updates. -/

namespace Sys2Proof.Machine

open Sys2Proof.Claims

/-- DT, ST and the key state taken through one function each. -/
def State.mapInputs (dt st : Byte → Byte) (keys : Vector Bool 16 → Vector Bool 16) (s : State) : State :=
  { s with dt := dt s.dt, st := st s.st, keys := keys s.keys }

theorem timerTick_eq_mapInputs : State.timerTick = State.mapInputs countDown countDown id := rfl

/-- The instructions that read or write a timer. -/
def UsesTimer : Instr → Prop
  | .ldVxDt _ | .ldDtVx _ | .ldStVx _ => True
  | _ => False

/-- The instructions that read the key state. -/
def ReadsKeys : Instr → Prop
  | .skp _ | .sknp _ | .ldVxK _ => True
  | _ => False

section
variable (dt st : Byte → Byte) (keys : Vector Bool 16 → Vector Bool 16)

/-! ### The shared operations -/

theorem skipIf_mapInputs (c : Bool) (s : State) :
    (s.mapInputs dt st keys).skipIf c = (s.skipIf c).mapInputs dt st keys := by
  cases c <;> rfl

theorem setLogicResult_mapInputs (x : Reg) (b : Byte) (s : State) :
    (s.mapInputs dt st keys).setLogicResult x b = (s.setLogicResult x b).mapInputs dt st keys := by
  rw [State.setLogicResult, State.setLogicResult, apply_ite (State.mapInputs dt st keys)]
  rfl

theorem bumpIndex_mapInputs (x : Reg) (s : State) :
    (s.mapInputs dt st keys).bumpIndex x = (s.bumpIndex x).mapInputs dt st keys := by
  rw [State.bumpIndex, State.bumpIndex, apply_ite (State.mapInputs dt st keys)]
  rfl

theorem readByte_mapInputs (s : State) (a : Nat) : (s.mapInputs dt st keys).readByte a = s.readByte a :=
  State.readByte_congr rfl rfl a

theorem reg_mapInputs (s : State) (x : Reg) : (s.mapInputs dt st keys).reg x = s.reg x := rfl

theorem effAddr_mapInputs (s : State) (k : Nat) : (s.mapInputs dt st keys).effAddr k = s.effAddr k := rfl

theorem loadRegBlock_mapInputs (x : Reg) (s : State) :
    (s.mapInputs dt st keys).loadRegBlock x = (s.loadRegBlock x).mapInputs dt st keys := by
  simp only [State.loadRegBlock, readByte_mapInputs, reg_mapInputs, effAddr_mapInputs]
  rfl

theorem showRaster_mapInputs (r : Raster) (s : State) :
    (s.mapInputs dt st keys).showRaster r = (s.showRaster r).mapInputs dt st keys := rfl

/-- A check and an effect that the update passes through. -/
theorem faultOr_mapInputs {i : Instr} {s effect effect' : State} {check : Option FaultKind}
    (heffect : effect' = effect.mapInputs dt st keys) :
    faultOr i (s.mapInputs dt st keys) check effect' =
      mapNext (State.mapInputs dt st keys) (faultOr i s check effect) := by
  subst heffect
  cases check <;> rfl

/-! ### Executions and ticks -/

/-- The update passes through an execution where it leaves alone what the instruction uses. -/
theorem exec_mapInputs {i : Instr} (s : State) (htimer : UsesTimer i → dt = id ∧ st = id)
    (hkeys : ReadsKeys i → keys = id) :
    exec i (s.mapInputs dt st keys) = mapNext (State.mapInputs dt st keys) (exec i s) := by
  cases i with
  | ret =>
    cases hstack : s.stack with
    | nil => rw [exec_ret_of_nil hstack, exec_ret_of_nil (s := s.mapInputs dt st keys) hstack]; rfl
    | cons a rest => rw [exec_ret_of_cons hstack, exec_ret_of_cons (s := s.mapInputs dt st keys) hstack]; rfl
  | call nnn =>
    by_cases hroom : s.stack.length < s.build.stackDepth
    · rw [exec_call_of_room nnn hroom, exec_call_of_room nnn (s := s.mapInputs dt st keys) hroom]
      rfl
    · have hfull := not_lt.1 hroom
      rw [exec_call_of_full nnn hfull, exec_call_of_full nnn (s := s.mapInputs dt st keys) hfull]
      rfl
  | ldFVx x =>
    by_cases hlarge : (s.reg x).toNat > 0xF
    · rw [exec_ldFVx_of_large hlarge, exec_ldFVx_of_large (s := s.mapInputs dt st keys) hlarge]
      rfl
    · obtain ⟨d, hd⟩ := exists_digit hlarge
      rw [exec_ldFVx_of_digit hd, exec_ldFVx_of_digit (s := s.mapInputs dt st keys) hd]
      rfl
  | skp x =>
    obtain rfl := hkeys trivial
    by_cases hlarge : (s.reg x).toNat > 0xF
    · rw [exec_skp_of_large hlarge, exec_skp_of_large (s := s.mapInputs dt st id) hlarge]
      rfl
    · obtain ⟨k, hk⟩ := exists_digit hlarge
      rw [exec_skp_of_key hk, exec_skp_of_key (s := s.mapInputs dt st id) hk]
      exact congrArg Host.Outcome.next (skipIf_mapInputs dt st id _ s.afterFetch)
  | sknp x =>
    obtain rfl := hkeys trivial
    by_cases hlarge : (s.reg x).toNat > 0xF
    · rw [exec_sknp_of_large hlarge, exec_sknp_of_large (s := s.mapInputs dt st id) hlarge]
      rfl
    · obtain ⟨k, hk⟩ := exists_digit hlarge
      rw [exec_sknp_of_key hk, exec_sknp_of_key (s := s.mapInputs dt st id) hk]
      exact congrArg Host.Outcome.next (skipIf_mapInputs dt st id _ s.afterFetch)
  | ldVxK x =>
    obtain rfl := hkeys trivial
    cases hkey : s.lowestKeyDown with
    | some k => rw [exec_ldVxK_of_lowest x hkey, exec_ldVxK_of_lowest (s := s.mapInputs dt st id) x hkey]; rfl
    | none => rw [exec_ldVxK_of_noKey x hkey, exec_ldVxK_of_noKey (s := s.mapInputs dt st id) x hkey]; rfl
  | ldVxDt x | ldDtVx x | ldStVx x =>
    obtain ⟨rfl, rfl⟩ := htimer trivial
    rfl
  | seImm x nn | sneImm x nn | seReg x y | sneReg x y =>
    exact congrArg Host.Outcome.next (skipIf_mapInputs dt st keys _ s.afterFetch)
  | orReg x y | andReg x y | xorReg x y =>
    exact congrArg Host.Outcome.next (setLogicResult_mapInputs dt st keys x _ s.afterFetch)
  | drw x y n =>
    exact faultOr_mapInputs dt st keys (showRaster_mapInputs dt st keys (s.spriteRaster x y n) s.afterFetch)
  | ldBVx x => exact faultOr_mapInputs dt st keys rfl
  | ldMemVx x =>
    exact faultOr_mapInputs dt st keys (bumpIndex_mapInputs dt st keys x (s.afterFetch.storeAtIndex (s.regBlock x)))
  | ldVxMem x =>
    refine faultOr_mapInputs dt st keys (effect := (s.afterFetch.loadRegBlock x).bumpIndex x) ?_
    rw [← bumpIndex_mapInputs, ← loadRegBlock_mapInputs]
    rfl
  | _ => rfl

/-- The update passes through a tick where it leaves alone what the fetched instruction uses. -/
theorem step_mapInputs (s : State) (htimer : ∀ i, Fetches s i → UsesTimer i → dt = id ∧ st = id)
    (hkeys : ∀ i, Fetches s i → ReadsKeys i → keys = id) :
    step (s.mapInputs dt st keys) = mapNext (State.mapInputs dt st keys) (step s) := by
  by_cases hf : s.fault = none
  · cases hcheck : s.fetchCheck with
    | some kind =>
      rw [step_fetchCheck hf hcheck, step_fetchCheck (s := s.mapInputs dt st keys) hf hcheck]
      rfl
    | none =>
      rw [step_fetched hf hcheck, step_fetched (s := s.mapInputs dt st keys) hf hcheck,
        show (s.mapInputs dt st keys).fetchWord = s.fetchWord from rfl]
      cases hdecode : decode s.fetchWord with
      | unrecognised w => rfl
      | instruction i =>
        have hfetch : Fetches s i := fetches_iff.2 ⟨hf, hcheck, hdecode⟩
        exact exec_mapInputs dt st keys s (htimer i hfetch) (hkeys i hfetch)
  · rw [step_halted hf, step_halted (s := s.mapInputs dt st keys) hf]
    rfl

end

/-- Settles O45: the timer tick leaves the keys alone, and no timer instruction is fetched. -/
theorem timerTickCommutesWithTick : Obligations.TimerTickCommutesWithTick := by
  unfold Obligations.TimerTickCommutesWithTick
  intro s hno
  rw [timerTick_eq_mapInputs]
  refine step_mapInputs countDown countDown id s (fun i hfetch huses => ?_) (fun _ _ _ => rfl)
  cases i with
  | ldVxDt x => exact absurd hfetch (hno x).1
  | ldDtVx x => exact absurd hfetch (hno x).2.1
  | ldStVx x => exact absurd hfetch (hno x).2.2
  | _ => exact absurd huses id

/-- Settles O46: another key state leaves the timers alone, and no key instruction is fetched. -/
theorem keysReachOnlyKeyInstructions : Obligations.KeysReachOnlyKeyInstructions := by
  unfold Obligations.KeysReachOnlyKeyInstructions
  intro s keys hno
  refine step_mapInputs id id (fun _ => keys) s (fun _ _ _ => ⟨rfl, rfl⟩) (fun i hfetch hreads => ?_)
  cases i with
  | skp x => exact absurd hfetch (hno x).1
  | sknp x => exact absurd hfetch (hno x).2.1
  | ldVxK x => exact absurd hfetch (hno x).2.2
  | _ => exact absurd hreads id

end Sys2Proof.Machine
end

section
/-! PROOFS. Drawing twice (45_display.md R215). The second sprite covers the pixels of the first, and each draw flips
exactly the pixels that its sprite covers. -/

namespace Sys2Proof.Machine

open Sys2Proof.Claims

section
variable {s s' : State} {x y : Reg} {n : Fin 16}

/-- What a sprite covers is decided by I, the wrap parameter, the sprite's bytes and the start position. -/
theorem spriteCovers_congr (hindex : s'.index = s.index) (hbuild : s'.build = s.build)
    (hbytes : ∀ k, k < n.val → s'.readByte (s.index.toNat + k) = s.readByte (s.index.toNat + k))
    (hx : (s'.reg x).toNat % 64 = (s.reg x).toNat % 64) (hy : (s'.reg y).toNat % 32 = (s.reg y).toNat % 32)
    (px py : Nat) : SpriteCovers s' x y n px py ↔ SpriteCovers s x y n px py := by
  unfold SpriteCovers
  rw [hindex, hbuild, hx, hy]
  refine exists_congr fun r => exists_congr fun c => and_congr_right fun hr => ?_
  rw [hbytes r hr]

/-- A pixel that two flips reach alike is what it was before them. -/
theorem bool_eq_of_flipped_twice {a b c : Bool} (h : c ≠ b ↔ b ≠ a) : c = a := by
  revert a b c
  decide

/-- Flipping the same pixels again gives the framebuffer back. -/
theorem spriteRaster_restores (hfb : s'.fb = (s.spriteRaster x y n).fb)
    (hcovers : ∀ px py, SpriteCovers s' x y n px py ↔ SpriteCovers s x y n px py) :
    (s'.spriteRaster x y n).fb = s.fb := by
  refine framebuffer_ext fun px py hx hy => bool_eq_of_flipped_twice (b := s'.fb.pixel px py) ?_
  calc (s'.spriteRaster x y n).fb.pixel px py ≠ s'.fb.pixel px py
      ↔ SpriteCovers s' x y n px py := pixel_spriteRaster_ne_iff ⟨hx, hy⟩
    _ ↔ SpriteCovers s x y n px py := hcovers px py
    _ ↔ (s.spriteRaster x y n).fb.pixel px py ≠ s.fb.pixel px py := (pixel_spriteRaster_ne_iff ⟨hx, hy⟩).symm
    _ ↔ s'.fb.pixel px py ≠ s.fb.pixel px py := by rw [hfb]

end

theorem flagByte_eq_one_iff (c : Bool) : flagByte c = 1 ↔ c = true := by
  cases c <;> decide

/-- Settles O37: the second draw covers the same pixels, so it restores them and collides where one is on. -/
theorem drawTwiceRestoresScreen : Obligations.DrawTwiceRestoresScreen := by
  unfold Obligations.DrawTwiceRestoresScreen
  intro x y n s t s' hrows hexec hfb hindex hbuild hbytes hx hy
  cases (exec_drw_of_rows x y hrows).symm.trans hexec
  have hcovers := spriteCovers_congr hindex hbuild hbytes hx hy
  have hrows' : s'.index.toNat + n.val ≤ 4096 ∨ n = 0 := hindex ▸ hrows
  refine ⟨_, exec_drw_of_rows x y hrows', onlyChanges_draw _ s', spriteRaster_restores hfb hcovers, ?_⟩
  rw [showRaster_flag, flagByte_eq_one_iff, spriteRaster_col_iff]
  simp only [SpriteCollides, hcovers, hfb]

end Sys2Proof.Machine
end

section
/-! PROOFS. Short runs: the tick as the execution of what it fetched (40_cycle.md R138), CALL and its RET
(95_test_vectors.md S5), one draw of the oracle (46_timers_keys_random.md R230), and the boot sequence
(70_reset_and_hazards.md R293). -/

namespace Sys2Proof.Machine

open Sys2Proof.Claims

/-- Settles O8: operands are in range by their types, and a fetched instruction is executed. -/
theorem stepRunsDecodedInstruction : Obligations.StepRunsDecodedInstruction := by
  unfold Obligations.StepRunsDecodedInstruction
  exact fun _ i hfetch => ⟨(rowMatch i).1, step_of_fetches hfetch⟩

/-- Settles O21: the CALL left the advanced pc on top of the caller's stack, and RET pops it. -/
theorem returnGoesBehindCall : Obligations.ReturnGoesBehindCall := by
  unfold Obligations.ReturnGoesBehindCall
  intro nnn s t t' hroom hcall hstack
  cases (exec_call_of_room nnn hroom).symm.trans hcall
  exact ⟨_, exec_ret_of_cons hstack, onlyChanges_stackJump s.stack (s.pc + 2) t', rfl, rfl⟩

/-- Settles O38: one draw is counted and VX takes the masked byte. -/
theorem rndMasksOracleByte : Obligations.RndMasksOracleByte := by
  unfold Obligations.RndMasksOracleByte
  intro x nn s
  have hframe : OnlyChanges (among [.reg x, .draws, .pc]) s (s.afterFetch.countDraw.setReg x (s.rand8 &&& nn)) :=
    onlyChanges_trans (onlyChanges_afterFetch (by simp [among]) s) (onlyChanges_trans
      (onlyChanges_countDraw (by simp [among]) _) (onlyChanges_setReg (by simp [among]) _ _))
  have hvalue : (s.afterFetch.countDraw.setReg x (s.rand8 &&& nn)).reg x = Config.randomByte s.draws &&& nn := by
    simp [State.rand8]
  refine ⟨encodes_wordXNN (op := 0xC#4) (by simp [decode]), _, rfl, hframe, ?_⟩
  simp only [hvalue]
  refine ⟨fun k _ => BitVec.getLsbD_and, ?zero, ?ones, rfl, rfl⟩
  case zero =>
    rintro rfl
    exact BitVec.and_zero
  case ones =>
    rintro rfl
    exact BitVec.and_allOnes

/-- The state that RESET and LOAD_ROM lead to has the ROM from 0x200 up. -/
theorem readByte_boot {rom : List Byte} (s : State) (hfits : rom.length ≤ 0xE00) {k : Nat} (hk : k < rom.length) :
    (s.resetBlock.placeRom rom).readByte (programBase + k) = rom[k] :=
  readByte_placeRom rfl hfits hk

/-- Settles O55: the first word of the ROM is what the first tick fetches. -/
theorem bootRunsFirstRomWord : Obligations.BootRunsFirstRomWord := by
  unfold Obligations.BootRunsFirstRomWord
  intro hi lo rest s i hrest hdecode
  have hfits : (hi :: lo :: rest).length ≤ 0xE00 := by
    simp only [List.length_cons]
    omega
  have hrun : runSchedule [.reset, .loadRom (hi :: lo :: rest)] s =
      .next (s.resetBlock.placeRom (hi :: lo :: rest)) := by
    simp only [runSchedule, transact_loadRom_of_fits hfits]
    rfl
  have hfetch : Fetches (s.resetBlock.placeRom (hi :: lo :: rest)) i := by
    refine ⟨rfl, rfl, show (0x0200#16).toNat ≤ 0xFFE by decide, ?_⟩
    have hhigh := readByte_boot s hfits (k := 0) (by simp)
    have hlow := readByte_boot s hfits (k := 1) (by simp)
    rw [fetchedNumber]
    exact hhigh ▸ hlow ▸ hdecode
  exact ⟨_, hrun, hfetch, rfl, s.resetBlock_reg, rfl, step_of_fetches hfetch⟩

end Sys2Proof.Machine
end
